-- ==== Sys2Proof/Word.lean ====
section
/-! DEFINITION. The word types of JCB (R5 `DATA_W`, `ADDR_W`, `AES_BLOCK`; R7: every value is unsigned). -/

namespace Sys2Proof

/-- One host data byte, and the width of every register of the map (R5 `DATA_W`, R23). -/
abbrev Byte := BitVec 8

/-- A host register address, 0x00 to 0x7F (R5 `ADDR_W`, R61). -/
abbrev Addr := BitVec 7

/-- A 16-bit value: the CRC shift register (R27) or a host transaction word (R87). -/
abbrev Word16 := BitVec 16

/-- A 16-byte array in stream order, index 0 the first byte: KEY, DIN, DOUT (R37 to R39). -/
abbrev Block := Vector Byte 16

/-- The 128-bit value of such an array, byte 0 in the most significant byte (R8). -/
abbrev Word128 := BitVec 128

end Sys2Proof
end

