-- ==== Sys2Proof/Syntax.lean ====
section
/-! DEFINITION. The instructions of JCB: the 21 commands of R83 and the two host accesses of R87, one
constructor for each row of the opcode table, and the two encoded forms of R80. -/

namespace Sys2Proof

/-- One row of the opcode table. A command carries no operand: it reads the named registers its rule lists
(R81, R86). A host access carries the 7-bit register address and, for a write, the data byte (R87). -/
inductive Instr where
  | nop            -- NOP, R100
  | softReset      -- SOFT_RESET, R101
  | clrErr         -- CLR_ERR, R102
  | crcInit        -- CRC_INIT, R124
  | crcUpdate      -- CRC_UPDATE, R125
  | crcCheck       -- CRC_CHECK, R126
  | lrcInit        -- LRC_INIT, R141
  | lrcUpdate      -- LRC_UPDATE, R142
  | lrcCheck       -- LRC_CHECK, R143
  | stuffClear     -- STUFF_CLEAR, R162
  | stuffByte      -- STUFF_BYTE, R163
  | unstuffByte    -- UNSTUFF_BYTE, R164
  | unstuffEnd     -- UNSTUFF_END, R165
  | aesKeyCommit   -- AES_KEY_COMMIT, R184
  | aesEncrypt     -- AES_ENCRYPT, R185
  | aesDecrypt     -- AES_DECRYPT, R186
  | aesKeyClear    -- AES_KEY_CLEAR, R187
  | bfExtract      -- BF_EXTRACT, R203
  | bfFill         -- BF_FILL, R204
  | bfPackFlags    -- BF_PACK_FLAGS, R205
  | bfUnpackFlags  -- BF_UNPACK_FLAGS, R206
  | rd (addr : Addr)                -- RD: MemRead(addr, 1), R104
  | wr (addr : Addr) (data : Byte)  -- WR: MemWrite(addr, 1, data), R105
  deriving DecidableEq, Repr

/-- The name of each row of the opcode table (R83, R89). -/
def Instr.mnemonic : Instr → String
  | .nop => "NOP"
  | .softReset => "SOFT_RESET"
  | .clrErr => "CLR_ERR"
  | .crcInit => "CRC_INIT"
  | .crcUpdate => "CRC_UPDATE"
  | .crcCheck => "CRC_CHECK"
  | .lrcInit => "LRC_INIT"
  | .lrcUpdate => "LRC_UPDATE"
  | .lrcCheck => "LRC_CHECK"
  | .stuffClear => "STUFF_CLEAR"
  | .stuffByte => "STUFF_BYTE"
  | .unstuffByte => "UNSTUFF_BYTE"
  | .unstuffEnd => "UNSTUFF_END"
  | .aesKeyCommit => "AES_KEY_COMMIT"
  | .aesEncrypt => "AES_ENCRYPT"
  | .aesDecrypt => "AES_DECRYPT"
  | .aesKeyClear => "AES_KEY_CLEAR"
  | .bfExtract => "BF_EXTRACT"
  | .bfFill => "BF_FILL"
  | .bfPackFlags => "BF_PACK_FLAGS"
  | .bfUnpackFlags => "BF_UNPACK_FLAGS"
  | .rd _ => "RD"
  | .wr _ _ => "WR"

/-- The two encoded forms of R80. A `cmd8` item is the access by which the host writes that command byte to
CMD (R80, R103); a `bus16` item is a host transaction word (R87). See notes/assumptions/2.md. -/
inductive HostWord where
  | cmd8 (c : Byte)
  | bus16 (w : Word16)
  deriving DecidableEq, Repr

/-- What can reach JCB from outside: a host access (R60), or the platform asserting hardware reset (R250). -/
inductive Event where
  | access (w : HostWord)
  | platformReset
  deriving DecidableEq, Repr

end Sys2Proof
end

