-- ==== Sys2Proof/WellFormed.lean ====
section
/-! DEFINITION. Which encoded words are accesses. The operands of an `Instr` are bit vectors of their exact
widths, so every `Instr` is well formed; what R88 refuses is a transaction WORD. -/

namespace Sys2Proof

/-- R88: every word with W = 1 is a legal write, a word with W = 0 is a legal read when DATA = 0x00, and any
other word is not a program word. Every command byte is a legal write to CMD (R84: a reserved one raises). -/
def HostWord.isProgramWord : HostWord → Bool
  | .cmd8 _ => true
  | .bus16 w => w.getLsbD 15 || w.extractLsb' 0 8 == 0

/-- What a script reader does with a sequence of words (R88): the position, counted from 0, and the text of
the first word it must refuse; `none` when the sequence is a program (R87). -/
def firstRefused : List HostWord → Option (Nat × HostWord)
  | [] => none
  | w :: ws =>
    if w.isProgramWord then (firstRefused ws).map fun r => (r.1 + 1, r.2) else some (0, w)

end Sys2Proof
end

