-- ==== Sys2Proof/Decode.lean ====
section
/-! DEFINITION. The decoder, total on every word and rejecting by name, and after it the encoder. -/

namespace Sys2Proof

/-- Why a word is no row of the opcode table. -/
inductive DecodeRefusal where
  /-- The command byte is reserved (R84). As an access it is a write that raises ILLEGAL_CMD (R103). -/
  | reservedCommand (c : Byte)
  /-- W = 0 with DATA ≠ 0x00: not a program word and not a bus access (R88). -/
  | notAProgramWord (w : Word16)
  deriving DecidableEq, Repr

/-- `CMD8`: UNIT is bits [7:4] and FUNC bits [3:0] (R81). -/
def cmdByte (unit func : BitVec 4) : Byte := unit ++ func

/-- The complete command set, as R83 lists it. -/
def opcodeMap : List (Byte × Instr) :=
  [(0x00, .nop), (0x01, .softReset), (0x02, .clrErr),
   (0x10, .crcInit), (0x11, .crcUpdate), (0x12, .crcCheck),
   (0x20, .lrcInit), (0x21, .lrcUpdate), (0x22, .lrcCheck),
   (0x30, .stuffClear), (0x31, .stuffByte), (0x32, .unstuffByte), (0x33, .unstuffEnd)] ++
  [(0x40, .aesKeyCommit), (0x41, .aesEncrypt), (0x42, .aesDecrypt), (0x43, .aesKeyClear),
   (0x50, .bfExtract), (0x51, .bfFill), (0x52, .bfPackFlags), (0x53, .bfUnpackFlags)]

/-- The command a byte selects: the whole byte must match (R83, mask 0xFF); `none` on a reserved byte (R84). -/
def decodeCommand (c : Byte) : Option Instr :=
  (opcodeMap.find? fun row => row.1 == c).map fun row => row.2

/-- `BUS16` bit [15]: 1 = MemWrite (R87). -/
def busIsWrite (w : Word16) : Bool := w.getLsbD 15

/-- `BUS16` bits [14:8]: the register address (R87). -/
def busAddr (w : Word16) : Addr := w.extractLsb' 8 7

/-- `BUS16` bits [7:0]: the write data (R87). -/
def busData (w : Word16) : Byte := w.extractLsb' 0 8

/-- Decoding of both encoded forms (R83, R84, R87, R88). -/
def decode : HostWord → Except DecodeRefusal Instr
  | .cmd8 c =>
    match decodeCommand c with
    | some i => .ok i
    | none => .error (.reservedCommand c)
  | .bus16 w =>
    if busIsWrite w then .ok (.wr (busAddr w) (busData w))
    else if busData w = 0 then .ok (.rd (busAddr w))
    else .error (.notAProgramWord w)

/-- The encoded form in which an opcode-table row of `nbits` bits stands: CMD8 for one byte, BUS16 otherwise
(R80, R91). -/
def hostWordOf (nbits w : Nat) : HostWord :=
  if nbits ≤ 8 then .cmd8 (BitVec.ofNat 8 w) else .bus16 (BitVec.ofNat 16 w)

/-- The instruction the decoder reads from a table row's word of `nbits` bits: 8 (CMD8) or 16 (BUS16). -/
def decodeTableWord (nbits w : Nat) : Option Instr :=
  if nbits = 8 ∨ nbits = 16 then
    match decode (hostWordOf nbits w) with
    | .ok i => some i
    | .error _ => none
  else none

/-- A host transaction word from its fields (R87). -/
def busWord (isWrite : Bool) (a : Addr) (d : Byte) : Word16 := BitVec.ofBool isWrite ++ a ++ d

/-- The word of an instruction, from UNIT and FUNC (R81 to R83) or from W, ADDR and DATA (R87). -/
def encode : Instr → HostWord
  | .nop => .cmd8 (cmdByte 0x0 0x0)
  | .softReset => .cmd8 (cmdByte 0x0 0x1)
  | .clrErr => .cmd8 (cmdByte 0x0 0x2)
  | .crcInit => .cmd8 (cmdByte 0x1 0x0)
  | .crcUpdate => .cmd8 (cmdByte 0x1 0x1)
  | .crcCheck => .cmd8 (cmdByte 0x1 0x2)
  | .lrcInit => .cmd8 (cmdByte 0x2 0x0)
  | .lrcUpdate => .cmd8 (cmdByte 0x2 0x1)
  | .lrcCheck => .cmd8 (cmdByte 0x2 0x2)
  | .stuffClear => .cmd8 (cmdByte 0x3 0x0)
  | .stuffByte => .cmd8 (cmdByte 0x3 0x1)
  | .unstuffByte => .cmd8 (cmdByte 0x3 0x2)
  | .unstuffEnd => .cmd8 (cmdByte 0x3 0x3)
  | .aesKeyCommit => .cmd8 (cmdByte 0x4 0x0)
  | .aesEncrypt => .cmd8 (cmdByte 0x4 0x1)
  | .aesDecrypt => .cmd8 (cmdByte 0x4 0x2)
  | .aesKeyClear => .cmd8 (cmdByte 0x4 0x3)
  | .bfExtract => .cmd8 (cmdByte 0x5 0x0)
  | .bfFill => .cmd8 (cmdByte 0x5 0x1)
  | .bfPackFlags => .cmd8 (cmdByte 0x5 0x2)
  | .bfUnpackFlags => .cmd8 (cmdByte 0x5 0x3)
  | .rd a => .bus16 (busWord false a 0x00)
  | .wr a d => .bus16 (busWord true a d)

end Sys2Proof
end

