-- ==== Sys2Proof/Config.lean ====
section
/-! DEFINITION. The implementation parameters of JCB, at the values R5 fixes. JCB "implements one fixed
configuration, which is every parameter in the table of rule R5 at its stated value" (R2), so each is a
constant; every rule that uses a row's name uses the constant here (R6). The two AES functions of R5 are
`Machine.aes128Enc` and `Machine.aes128Dec`. See notes/assumptions/8.md and 10.md. -/

namespace Sys2Proof.Config

/-- `CRC_POLY`: the generator x^16 + x^12 + x^5 + 1 in normal (MSB-first) form (R5, D10). -/
def crcPoly : Word16 := 0x1021

/-- `CRC_INIT`: the value CRC_INIT and reset load (R5, D10). -/
def crcInit : Word16 := 0xFFFF

/-- `CRC_REFIN`: bytes enter least significant bit first (R5, D10). -/
def crcRefIn : Bool := true

/-- `CRC_REFOUT`: the MSB-first register is bit-reversed on output, so the LSB-first register of R121 is
output as it stands (R5, R122, D10). -/
def crcRefOut : Bool := true

/-- `CRC_XOROUT` (R5, D10). -/
def crcXorOut : Word16 := 0xFFFF

/-- `LRC_INIT`: the seed of the LRC (R5, D13). -/
def lrcInit : Byte := 0x55

/-- `MARKER`: the frame boundary byte (R5, R160). -/
def marker : Byte := 0x7E

/-- `ESC`: the escape byte (R5, R160, D15). -/
def esc : Byte := 0x7D

/-- `ESC_XOR`: the transform of an escaped byte (R5, R160, D15). -/
def escXor : Byte := 0x20

/-- `BITPOS_BASE`: the number of the least significant bit in a start-bit operand (R5, R201, D21). -/
def bitposBase : Nat := 1

/-- `JCB_BASE`: where the platform places the block in the host's address space. The spec leaves it OPEN and
no rule depends on it (R69, X9): a free value. -/
opaque jcbBase : Nat

/-- The host address of a register: `JCB_BASE` plus its 7-bit address (R69). -/
def hostAddress (a : Addr) : Nat := jcbBase + a.toNat

end Sys2Proof.Config
end

