-- ==== Sys2Proof/Machine/State.lean ====
section
/-! DEFINITION. The state of JCB (R20, R23, R42), the host's side of the bus, and why a step can stop. -/

namespace Sys2Proof.Machine

/-- Every piece of state R42 lists: the registers of R23 that have storage of their own, with the fields of
STATUS (R25) each under its own name, and the hidden key (R37). CMD is a port (R24), CRC_OUT0 and CRC_OUT1 are
views (R28) and reserved addresses hold nothing (R40), so none of those is here. -/
structure Regs where
  /-- STATUS[2:0], ERR: code of the first unacknowledged error (R25). -/
  err : BitVec 3
  /-- STATUS[3], ERR_OVF: an error was raised while ERR was nonzero (R25). -/
  errOvf : Bool
  /-- STATUS[4], KEY_VALID: the key was committed and not changed since (R25). -/
  keyValid : Bool
  /-- STATUS[5], ESC_PENDING: the unstuffer waits for the byte after an escape (R25, R32). -/
  escPending : Bool
  /-- STATUS[6], CHK_OK: result of the last check (R25). -/
  chkOk : Bool
  /-- OPND, 0x02 (R26). -/
  opnd : Byte
  /-- CRC_S, 0x04 (low byte) and 0x05 (high byte) (R27). -/
  crcS : Word16
  /-- CRC_EXP0, 0x08 (R29). -/
  crcExp0 : Byte
  /-- CRC_EXP1, 0x09 (R29). -/
  crcExp1 : Byte
  /-- LRC_S, 0x0A (R30). -/
  lrcS : Byte
  /-- SOUT0, 0x0C (R31). -/
  sout0 : Byte
  /-- SOUT1, 0x0D (R31). -/
  sout1 : Byte
  /-- SOUT_CNT[1:0], 0x0E; bits [7:2] always read 0 (R31). -/
  soutCnt : BitVec 2
  /-- BF_A, 0x10 (R33). -/
  bfA : Byte
  /-- BF_B, 0x11 (R33). -/
  bfB : Byte
  /-- BF_W, 0x12 (R34). -/
  bfW : Byte
  /-- BF_S, 0x13 (R34). -/
  bfS : Byte
  /-- BF_RES, 0x14 (R35). -/
  bfRes : Byte
  /-- MASK[0] to MASK[7], 0x18 to 0x1F (R36). -/
  mask : Vector Byte 8
  /-- KEY[0] to KEY[15], 0x20 to 0x2F, write-only (R37). -/
  key : Block
  /-- DIN[0] to DIN[15], 0x30 to 0x3F (R38). -/
  din : Block
  /-- DOUT[0] to DOUT[15], 0x40 to 0x4F (R39). -/
  dout : Block
  deriving DecidableEq, Repr

/-- The host and its bus, the other agent of R20. These fields are the MODEL's own: JCB keeps no record of a
position in the host's program (R22), which is a parameter of the model and not JCB state (R41).
DESIGN CHOICE, notes/assumptions/1.md and 4.md. -/
structure HostSide where
  /-- The accesses and resets that are to reach JCB, in the one order of R71. -/
  pending : List Event
  /-- How many host words the script reader has taken: the position R88 refuses a word by. -/
  position : Nat
  /-- The bytes MemRead has returned to the host (R104), newest first. -/
  reads : List Byte
  deriving DecidableEq, Repr

/-- JCB's registers and the host that drives them. -/
structure State where
  regs : Regs
  host : HostSide
  deriving DecidableEq, Repr

/-- There is no fault: "JCB has no traps" (R220) and no trap entry (R227). Every error, the reserved command
byte's among them, is recorded in STATUS and the machine goes on (R223). Safe: see notes/assumptions/9.md. -/
inductive Fault where
  deriving DecidableEq, Repr

/-- Why a step answers no next state. -/
inductive Refusal where
  /-- Raised by an arm of `exec` for an instruction without a meaning; no arm does. Safe. -/
  | notModelled (mnemonic : String)
  /-- Raised by `step` when the host's program holds a word with W = 0 and DATA ≠ 0x00: "a script reader must
  refuse it by name and position. It is not a bus access, so JCB is never given it" (R88). Safe. -/
  | notAProgramWord (position : Nat) (word : Word16)
  deriving DecidableEq, Repr

/-- The reset value of every piece of JCB state (R42). -/
def Regs.reset : Regs where
  err := 0
  errOvf := false
  keyValid := false
  escPending := false
  chkOk := false
  opnd := 0x00
  crcS := Config.crcInit
  crcExp0 := 0x00
  crcExp1 := 0x00
  lrcS := Config.lrcInit
  sout0 := 0x00
  sout1 := 0x00
  soutCnt := 0
  bfA := 0x00
  bfB := 0x00
  bfW := 0x00
  bfS := 0x00
  bfRes := 0x00
  mask := Vector.replicate 8 0x00
  key := Vector.replicate 16 0x00
  din := Vector.replicate 16 0x00
  dout := Vector.replicate 16 0x00

/-- JCB right after reset (R42, R250), with a host that has issued nothing. -/
def State.reset : State where
  regs := Regs.reset
  host := { pending := [], position := 0, reads := [] }

end Sys2Proof.Machine
end

