-- ==== Sys2Proof/Machine/Operands.lean ====
section
/-! DEFINITION. Where operands come from: the register map (R23), the byte order of the AES blocks (R8, R182),
and the field operands of the bit-field unit (R201, R202). -/

namespace Sys2Proof.Machine

/-- The access codes of R23; `none` is a reserved address (R40). -/
inductive Access where
  | rw | ro | wo | port | none
  deriving DecidableEq, Repr

/-- The registers of R23 by name; `reserved` stands for every address of R40. -/
inductive RegName where
  | cmd | status | opnd
  | crcSLo | crcSHi | crcOut0 | crcOut1 | crcExp0 | crcExp1
  | lrcS
  | sout0 | sout1 | soutCnt
  | bfA | bfB | bfW | bfS | bfRes
  | mask (i : Fin 8)
  | key (i : Fin 16)
  | din (i : Fin 16)
  | dout (i : Fin 16)
  | reserved
  deriving DecidableEq, Repr

/-- The register at an address (R23). -/
def regAt (a : Addr) : RegName :=
  let n := a.toNat
  if n = 0x00 then .cmd
  else if n = 0x01 then .status
  else if n = 0x02 then .opnd
  else if n = 0x04 then .crcSLo
  else if n = 0x05 then .crcSHi
  else if n = 0x06 then .crcOut0
  else if n = 0x07 then .crcOut1
  else if n = 0x08 then .crcExp0
  else if n = 0x09 then .crcExp1
  else if n = 0x0A then .lrcS
  else if n = 0x0C then .sout0
  else if n = 0x0D then .sout1
  else if n = 0x0E then .soutCnt
  else if n = 0x10 then .bfA
  else if n = 0x11 then .bfB
  else if n = 0x12 then .bfW
  else if n = 0x13 then .bfS
  else if n = 0x14 then .bfRes
  else if h : 0x18 ≤ n ∧ n ≤ 0x1F then .mask ⟨n - 0x18, by omega⟩
  else if h : 0x20 ≤ n ∧ n ≤ 0x2F then .key ⟨n - 0x20, by omega⟩
  else if h : 0x30 ≤ n ∧ n ≤ 0x3F then .din ⟨n - 0x30, by omega⟩
  else if h : 0x40 ≤ n ∧ n ≤ 0x4F then .dout ⟨n - 0x40, by omega⟩
  else .reserved

/-- The address of a register (R23); `none` for `reserved`, which names no one address. -/
def RegName.addr? : RegName → Option Addr
  | .cmd => some 0x00
  | .status => some 0x01
  | .opnd => some 0x02
  | .crcSLo => some 0x04
  | .crcSHi => some 0x05
  | .crcOut0 => some 0x06
  | .crcOut1 => some 0x07
  | .crcExp0 => some 0x08
  | .crcExp1 => some 0x09
  | .lrcS => some 0x0A
  | .sout0 => some 0x0C
  | .sout1 => some 0x0D
  | .soutCnt => some 0x0E
  | .bfA => some 0x10
  | .bfB => some 0x11
  | .bfW => some 0x12
  | .bfS => some 0x13
  | .bfRes => some 0x14
  | .mask i => some (BitVec.ofNat 7 (0x18 + i.val))
  | .key i => some (BitVec.ofNat 7 (0x20 + i.val))
  | .din i => some (BitVec.ofNat 7 (0x30 + i.val))
  | .dout i => some (BitVec.ofNat 7 (0x40 + i.val))
  | .reserved => none

/-- The access code of each register (R23). -/
def RegName.access : RegName → Access
  | .cmd => .port
  | .status | .crcOut0 | .crcOut1 | .sout0 | .sout1 | .soutCnt | .bfRes | .dout _ => .ro
  | .key _ => .wo
  | .opnd | .crcSLo | .crcSHi | .crcExp0 | .crcExp1 | .lrcS | .bfA | .bfB | .bfW | .bfS => .rw
  | .mask _ | .din _ => .rw
  | .reserved => .none

/-- `v[7:0]` of a 16-bit value (R7). -/
def lowByte (v : Word16) : Byte := v.extractLsb' 0 8

/-- `v[15:8]` of a 16-bit value (R7). -/
def highByte (v : Word16) : Byte := v.extractLsb' 8 8

/-- `{hi, lo}` (R7). -/
def joinBytes (hi lo : Byte) : Word16 := hi ++ lo

/-- `swap16(v) = {v[7:0], v[15:8]}` (R63). -/
def swap16 (v : Word16) : Word16 := joinBytes (lowByte v) (highByte v)

/-- The 128-bit value of a byte array, index 0 in the most significant byte (R8, R182). -/
def packBlock (b : Block) : Word128 := b.toList.foldl (fun acc x => (acc <<< 8) ||| x.setWidth 128) 0

/-- The byte array of a 128-bit value: byte i is bits [127-8i : 120-8i] (R8, R182: output byte i goes to index i). -/
def unpackBlock (w : Word128) : Block := Vector.ofFn fun i : Fin 16 => w.extractLsb' (120 - 8 * i.val) 8

/-- The zero-based shift `s` of the field operand BF_S (R201). -/
def fieldShift (startBit : Byte) : Nat := startBit.toNat - Config.bitposBase

/-- `legal_field` (R201): the width is 1 to 8, the start bit lies in the byte, and the field does not cross
bit 7. Its second clause makes the subtraction of `fieldShift` exact. -/
def legalField (width startBit : Byte) : Bool :=
  decide (1 ≤ width.toNat ∧ width.toNat ≤ 8) &&
    decide (Config.bitposBase ≤ startBit.toNat ∧ startBit.toNat ≤ Config.bitposBase + 7) &&
    decide (fieldShift startBit + width.toNat ≤ 8)

/-- `((1 << w) - 1)[7:0]`: `w` ones from bit 0 (R203). -/
def lowOnes (w : Nat) : Byte := BitVec.ofNat 8 ((1 <<< w) - 1)

/-- `fmask` (R202): `w` ones from bit `s`, truncated to 8 bits. -/
def fieldMask (w s : Nat) : Byte := BitVec.ofNat 8 (((1 <<< w) - 1) <<< s)

end Sys2Proof.Machine
end

