-- ==== Sys2Proof/Machine/Aes128.lean ====
section
/-! DEFINITION. The AES-128 primitive the wrapper runs: `AES128_Enc` and `AES128_Dec` of R5. R181 fixes them as
the cipher and inverse cipher of FIPS-197, which the spec names and does not print; the algorithm below is that
standard's. PRESUMED: notes/assumptions/7.md. A block's byte i is FIPS-197 input byte i (R182): row i mod 4,
column i / 4 of the cipher's state. -/

namespace Sys2Proof.Machine

/-- The S-box of FIPS-197, entry b at index b. -/
def sboxTable : List Byte :=
  [0x63, 0x7c, 0x77, 0x7b, 0xf2, 0x6b, 0x6f, 0xc5, 0x30, 0x01, 0x67, 0x2b, 0xfe, 0xd7, 0xab, 0x76] ++
  [0xca, 0x82, 0xc9, 0x7d, 0xfa, 0x59, 0x47, 0xf0, 0xad, 0xd4, 0xa2, 0xaf, 0x9c, 0xa4, 0x72, 0xc0] ++
  [0xb7, 0xfd, 0x93, 0x26, 0x36, 0x3f, 0xf7, 0xcc, 0x34, 0xa5, 0xe5, 0xf1, 0x71, 0xd8, 0x31, 0x15] ++
  [0x04, 0xc7, 0x23, 0xc3, 0x18, 0x96, 0x05, 0x9a, 0x07, 0x12, 0x80, 0xe2, 0xeb, 0x27, 0xb2, 0x75] ++
  [0x09, 0x83, 0x2c, 0x1a, 0x1b, 0x6e, 0x5a, 0xa0, 0x52, 0x3b, 0xd6, 0xb3, 0x29, 0xe3, 0x2f, 0x84] ++
  [0x53, 0xd1, 0x00, 0xed, 0x20, 0xfc, 0xb1, 0x5b, 0x6a, 0xcb, 0xbe, 0x39, 0x4a, 0x4c, 0x58, 0xcf] ++
  [0xd0, 0xef, 0xaa, 0xfb, 0x43, 0x4d, 0x33, 0x85, 0x45, 0xf9, 0x02, 0x7f, 0x50, 0x3c, 0x9f, 0xa8] ++
  [0x51, 0xa3, 0x40, 0x8f, 0x92, 0x9d, 0x38, 0xf5, 0xbc, 0xb6, 0xda, 0x21, 0x10, 0xff, 0xf3, 0xd2] ++
  [0xcd, 0x0c, 0x13, 0xec, 0x5f, 0x97, 0x44, 0x17, 0xc4, 0xa7, 0x7e, 0x3d, 0x64, 0x5d, 0x19, 0x73] ++
  [0x60, 0x81, 0x4f, 0xdc, 0x22, 0x2a, 0x90, 0x88, 0x46, 0xee, 0xb8, 0x14, 0xde, 0x5e, 0x0b, 0xdb] ++
  [0xe0, 0x32, 0x3a, 0x0a, 0x49, 0x06, 0x24, 0x5c, 0xc2, 0xd3, 0xac, 0x62, 0x91, 0x95, 0xe4, 0x79] ++
  [0xe7, 0xc8, 0x37, 0x6d, 0x8d, 0xd5, 0x4e, 0xa9, 0x6c, 0x56, 0xf4, 0xea, 0x65, 0x7a, 0xae, 0x08] ++
  [0xba, 0x78, 0x25, 0x2e, 0x1c, 0xa6, 0xb4, 0xc6, 0xe8, 0xdd, 0x74, 0x1f, 0x4b, 0xbd, 0x8b, 0x8a] ++
  [0x70, 0x3e, 0xb5, 0x66, 0x48, 0x03, 0xf6, 0x0e, 0x61, 0x35, 0x57, 0xb9, 0x86, 0xc1, 0x1d, 0x9e] ++
  [0xe1, 0xf8, 0x98, 0x11, 0x69, 0xd9, 0x8e, 0x94, 0x9b, 0x1e, 0x87, 0xe9, 0xce, 0x55, 0x28, 0xdf] ++
  [0x8c, 0xa1, 0x89, 0x0d, 0xbf, 0xe6, 0x42, 0x68, 0x41, 0x99, 0x2d, 0x0f, 0xb0, 0x54, 0xbb, 0x16]

/-- The inverse S-box of FIPS-197. -/
def invSboxTable : List Byte :=
  [0x52, 0x09, 0x6a, 0xd5, 0x30, 0x36, 0xa5, 0x38, 0xbf, 0x40, 0xa3, 0x9e, 0x81, 0xf3, 0xd7, 0xfb] ++
  [0x7c, 0xe3, 0x39, 0x82, 0x9b, 0x2f, 0xff, 0x87, 0x34, 0x8e, 0x43, 0x44, 0xc4, 0xde, 0xe9, 0xcb] ++
  [0x54, 0x7b, 0x94, 0x32, 0xa6, 0xc2, 0x23, 0x3d, 0xee, 0x4c, 0x95, 0x0b, 0x42, 0xfa, 0xc3, 0x4e] ++
  [0x08, 0x2e, 0xa1, 0x66, 0x28, 0xd9, 0x24, 0xb2, 0x76, 0x5b, 0xa2, 0x49, 0x6d, 0x8b, 0xd1, 0x25] ++
  [0x72, 0xf8, 0xf6, 0x64, 0x86, 0x68, 0x98, 0x16, 0xd4, 0xa4, 0x5c, 0xcc, 0x5d, 0x65, 0xb6, 0x92] ++
  [0x6c, 0x70, 0x48, 0x50, 0xfd, 0xed, 0xb9, 0xda, 0x5e, 0x15, 0x46, 0x57, 0xa7, 0x8d, 0x9d, 0x84] ++
  [0x90, 0xd8, 0xab, 0x00, 0x8c, 0xbc, 0xd3, 0x0a, 0xf7, 0xe4, 0x58, 0x05, 0xb8, 0xb3, 0x45, 0x06] ++
  [0xd0, 0x2c, 0x1e, 0x8f, 0xca, 0x3f, 0x0f, 0x02, 0xc1, 0xaf, 0xbd, 0x03, 0x01, 0x13, 0x8a, 0x6b] ++
  [0x3a, 0x91, 0x11, 0x41, 0x4f, 0x67, 0xdc, 0xea, 0x97, 0xf2, 0xcf, 0xce, 0xf0, 0xb4, 0xe6, 0x73] ++
  [0x96, 0xac, 0x74, 0x22, 0xe7, 0xad, 0x35, 0x85, 0xe2, 0xf9, 0x37, 0xe8, 0x1c, 0x75, 0xdf, 0x6e] ++
  [0x47, 0xf1, 0x1a, 0x71, 0x1d, 0x29, 0xc5, 0x89, 0x6f, 0xb7, 0x62, 0x0e, 0xaa, 0x18, 0xbe, 0x1b] ++
  [0xfc, 0x56, 0x3e, 0x4b, 0xc6, 0xd2, 0x79, 0x20, 0x9a, 0xdb, 0xc0, 0xfe, 0x78, 0xcd, 0x5a, 0xf4] ++
  [0x1f, 0xdd, 0xa8, 0x33, 0x88, 0x07, 0xc7, 0x31, 0xb1, 0x12, 0x10, 0x59, 0x27, 0x80, 0xec, 0x5f] ++
  [0x60, 0x51, 0x7f, 0xa9, 0x19, 0xb5, 0x4a, 0x0d, 0x2d, 0xe5, 0x7a, 0x9f, 0x93, 0xc9, 0x9c, 0xef] ++
  [0xa0, 0xe0, 0x3b, 0x4d, 0xae, 0x2a, 0xf5, 0xb0, 0xc8, 0xeb, 0xbb, 0x3c, 0x83, 0x53, 0x99, 0x61] ++
  [0x17, 0x2b, 0x04, 0x7e, 0xba, 0x77, 0xd6, 0x26, 0xe1, 0x69, 0x14, 0x63, 0x55, 0x21, 0x0c, 0x7d]

/-- Substitution of one byte. -/
def sbox (b : Byte) : Byte := sboxTable.getD b.toNat 0x00

/-- Inverse substitution of one byte. -/
def invSbox (b : Byte) : Byte := invSboxTable.getD b.toNat 0x00

/-- Multiplication by x in GF(2^8) modulo x^8 + x^4 + x^3 + x + 1. -/
def xtime (b : Byte) : Byte := if b.msb then (b <<< 1) ^^^ 0x1B else b <<< 1

/-- Multiplication by the constant 0x03. -/
def times3 (b : Byte) : Byte := xtime b ^^^ b

/-- Multiplication by the constant 0x09. -/
def times9 (b : Byte) : Byte := xtime (xtime (xtime b)) ^^^ b

/-- Multiplication by the constant 0x0B. -/
def timesB (b : Byte) : Byte := xtime (xtime (xtime b)) ^^^ xtime b ^^^ b

/-- Multiplication by the constant 0x0D. -/
def timesD (b : Byte) : Byte := xtime (xtime (xtime b)) ^^^ xtime (xtime b) ^^^ b

/-- Multiplication by the constant 0x0E. -/
def timesE (b : Byte) : Byte := xtime (xtime (xtime b)) ^^^ xtime (xtime b) ^^^ xtime b

/-- SubBytes. -/
def subBytes (s : Block) : Block := s.map sbox

/-- InvSubBytes. -/
def invSubBytes (s : Block) : Block := s.map invSbox

/-- ShiftRows: row r rotates left by r columns. -/
def shiftRows (s : Block) : Block := Vector.ofFn fun i : Fin 16 => s[(i.val + 4 * (i.val % 4)) % 16]

/-- InvShiftRows: row r rotates right by r columns. -/
def invShiftRows (s : Block) : Block := Vector.ofFn fun i : Fin 16 => s[(i.val + 12 * (i.val % 4)) % 16]

/-- The byte of the same column as byte `i`, `k` rows further down, cyclically. -/
def columnByte (s : Block) (i : Fin 16) (k : Nat) : Byte := s[4 * (i.val / 4) + (i.val + k) % 4]

/-- MixColumns. -/
def mixColumns (s : Block) : Block := Vector.ofFn fun i : Fin 16 =>
  xtime (columnByte s i 0) ^^^ times3 (columnByte s i 1) ^^^ columnByte s i 2 ^^^ columnByte s i 3

/-- InvMixColumns. -/
def invMixColumns (s : Block) : Block := Vector.ofFn fun i : Fin 16 =>
  timesE (columnByte s i 0) ^^^ timesB (columnByte s i 1) ^^^ timesD (columnByte s i 2) ^^^ times9 (columnByte s i 3)

/-- AddRoundKey. -/
def addRoundKey (s k : Block) : Block := Vector.ofFn fun i : Fin 16 => s[i] ^^^ k[i]

/-- SubWord(RotWord(w[3])) xor Rcon, for the last word w[3] of a round key. -/
def scheduleWord (k : Block) (rcon : Byte) : Vector Byte 4 :=
  #v[sbox k[13] ^^^ rcon, sbox k[14], sbox k[15], sbox k[12]]

/-- The next round key: each word is the word before it xor the same word of this round key, and the word
before the first is `scheduleWord`. So word j is `scheduleWord` xor words 0 to j of this round key. -/
def nextRoundKey (k : Block) (rcon : Byte) : Block := Vector.ofFn fun i : Fin 16 =>
  (List.range (i.val / 4 + 1)).foldl (fun acc j => acc ^^^ k.toList.getD (4 * j + i.val % 4) 0x00)
    ((scheduleWord k rcon)[i.val % 4])

/-- The ten round constants. -/
def rcons : List Byte := [0x01, 0x02, 0x04, 0x08, 0x10, 0x20, 0x40, 0x80, 0x1B, 0x36]

/-- The round keys after `k`, one for each constant. -/
def laterRoundKeys (k : Block) : List Byte → List Block
  | [] => []
  | c :: cs => nextRoundKey k c :: laterRoundKeys (nextRoundKey k c) cs

/-- The rounds of the cipher after the first AddRoundKey: the last one has no MixColumns. -/
def cipherRounds (s : Block) : List Block → Block
  | [] => s
  | [k] => addRoundKey (shiftRows (subBytes s)) k
  | k :: k' :: ks => cipherRounds (addRoundKey (mixColumns (shiftRows (subBytes s))) k) (k' :: ks)

/-- The rounds of the inverse cipher, undoing those of `cipherRounds` on the same keys, the last key first. -/
def inverseRounds (s : Block) : List Block → Block
  | [] => s
  | [k] => invSubBytes (invShiftRows (addRoundKey s k))
  | k :: k' :: ks => invSubBytes (invShiftRows (invMixColumns (addRoundKey (inverseRounds s (k' :: ks)) k)))

/-- The cipher on byte arrays. -/
def cipher (k p : Block) : Block := cipherRounds (addRoundKey p k) (laterRoundKeys k rcons)

/-- The inverse cipher on byte arrays. -/
def inverseCipher (k c : Block) : Block := addRoundKey (inverseRounds c (laterRoundKeys k rcons)) k

/-- `AES128_Enc` (R5, R181): key and block as 128-bit values, byte 0 the most significant (R182). -/
def aes128Enc (k p : Word128) : Word128 := packBlock (cipher (unpackBlock k) (unpackBlock p))

/-- `AES128_Dec` (R5, R181). -/
def aes128Dec (k c : Word128) : Word128 := packBlock (inverseCipher (unpackBlock k) (unpackBlock c))

end Sys2Proof.Machine
end

