-- ==== Sys2Proof/Machine/Flags.lean ====
section
/-! DEFINITION. STATUS, the block's whole flag state (R25), and the error codes it records (R221). -/

namespace Sys2Proof.Machine

/-- The errors an access can raise (R221). NONE is the absence of one; code 7 is never produced. -/
inductive ErrorName where
  | illegalCmd
  | checksum
  | format
  | noKey
  | field
  | illegalAccess
  deriving DecidableEq, Repr

/-- The code STATUS.ERR holds for each error (R221). -/
def ErrorName.code : ErrorName → BitVec 3
  | .illegalCmd => 1
  | .checksum => 2
  | .format => 3
  | .noKey => 4
  | .field => 5
  | .illegalAccess => 6

/-- The byte a read of STATUS returns: bit 7 reads 0, then CHK_OK, ESC_PENDING, KEY_VALID, ERR_OVF and the
three bits of ERR (R25). -/
def Regs.status (g : Regs) : Byte :=
  0#1 ++ BitVec.ofBool g.chkOk ++ BitVec.ofBool g.escPending ++ BitVec.ofBool g.keyValid ++
    BitVec.ofBool g.errOvf ++ g.err

/-- `record_error(E)` (R223): ERR keeps the first code; a later error sets ERR_OVF. -/
def Regs.recordError (e : ErrorName) (g : Regs) : Regs :=
  if g.err = 0 then { g with err := e.code } else { g with errOvf := true }

/-- The acknowledgement of errors: ERR and ERR_OVF become 0 (R102, R228). -/
def Regs.acknowledge (g : Regs) : Regs := { g with err := 0, errOvf := false }

end Sys2Proof.Machine
end

