-- ==== Sys2Proof/Machine/Ops.lean ====
section
/-! DEFINITION. The shared operations: raising an error and acknowledging it, reset, reading and writing the
registers of the map, and taking the next event from the host. -/

namespace Sys2Proof.Machine

/-- A change of JCB's registers that the host's side does not see. -/
def State.onRegs (f : Regs → Regs) (s : State) : State := { s with regs := f s.regs }

/-- `raise E` (R10): the whole effect is `record_error(E)` (R220, R227); the access's other writes are not made. -/
def raise (e : ErrorName) (g : Regs) : Regs := g.recordError e

/-- The end of CRC_CHECK and LRC_CHECK (R126, R143): CHK_OK takes the verdict even when CHECKSUM is raised (R224). -/
def recordCheck (ok : Bool) (g : Regs) : Regs :=
  if ok then { g with chkOk := true } else raise .checksum { g with chkOk := false }

/-- Reset of JCB (R250, R251): every piece of its state takes the value of R42. The host's side is not JCB's. -/
def State.resetRegs (s : State) : State := s.onRegs fun _ => Regs.reset

/-- `crc_res(s)` (R121). -/
def crcRes (s : Word16) : Word16 := s ^^^ Config.crcXorOut

/-- What a host read of each register returns (R104): the current value of an RW or RO register, 0x00 for a
WO register, the command port and a reserved address (R24, R37, R40). -/
def readReg (r : RegName) (g : Regs) : Byte :=
  match r with
  | .cmd => 0x00
  | .status => g.status
  | .opnd => g.opnd
  | .crcSLo => lowByte g.crcS
  | .crcSHi => highByte g.crcS
  | .crcOut0 => lowByte (crcRes g.crcS)
  | .crcOut1 => highByte (crcRes g.crcS)
  | .crcExp0 => g.crcExp0
  | .crcExp1 => g.crcExp1
  | .lrcS => g.lrcS
  | .sout0 => g.sout0
  | .sout1 => g.sout1
  | .soutCnt => g.soutCnt.setWidth 8
  | .bfA => g.bfA
  | .bfB => g.bfB
  | .bfW => g.bfW
  | .bfS => g.bfS
  | .bfRes => g.bfRes
  | .mask i => g.mask[i]
  | .key _ => 0x00
  | .din i => g.din[i]
  | .dout i => g.dout[i]
  | .reserved => 0x00

/-- `MemRead(addr, 1)` (R104). It is a function of the registers: a read changes nothing (R67). -/
def memRead (a : Addr) (g : Regs) : Byte := readReg (regAt a) g

/-- The store of R105 into an RW register: all 8 bits, with no legality check. No other register is stored to
by it. -/
def storeReg (r : RegName) (v : Byte) (g : Regs) : Regs :=
  match r with
  | .opnd => { g with opnd := v }
  | .crcSLo => { g with crcS := joinBytes (highByte g.crcS) v }
  | .crcSHi => { g with crcS := joinBytes v (lowByte g.crcS) }
  | .crcExp0 => { g with crcExp0 := v }
  | .crcExp1 => { g with crcExp1 := v }
  | .lrcS => { g with lrcS := v }
  | .bfA => { g with bfA := v }
  | .bfB => { g with bfB := v }
  | .bfW => { g with bfW := v }
  | .bfS => { g with bfS := v }
  | .mask i => { g with mask := g.mask.set i v }
  | .din i => { g with din := g.din.set i v }
  | .cmd | .status | .crcOut0 | .crcOut1 | .sout0 | .sout1 | .soutCnt | .bfRes => g
  | .key _ | .dout _ | .reserved => g

/-- A host write to KEY[i] (R107): the byte is stored and KEY_VALID cleared. -/
def storeKey (i : Fin 16) (v : Byte) (g : Regs) : Regs :=
  { g with key := g.key.set i v, keyValid := false }

/-- What the host presents next, if anything (R60, R71: one total order). -/
def State.nextEvent (s : State) : Option Event := s.host.pending.head?

/-- The state in which the presented access is handled: the access has left the host's queue and the script
reader stands one word further. -/
def State.takeAccess (s : State) : State :=
  { s with host := { s.host with pending := s.host.pending.tail, position := s.host.position + 1 } }

/-- The state after the platform's reset has left the queue and reached JCB (R250): it is no script word, so
the reader's position stays. -/
def State.takeReset (s : State) : State :=
  { s with host := { s.host with pending := s.host.pending.tail } }.resetRegs

/-- The host receives the byte its MemRead returned (R104). -/
def State.hostReceives (b : Byte) (s : State) : State :=
  { s with host := { s.host with reads := b :: s.host.reads } }

/-- The host is given a program (R87): its words are put after what is already pending. -/
def State.load (program : List HostWord) (s : State) : State :=
  { s with host := { s.host with pending := s.host.pending ++ program.map Event.access } }

end Sys2Proof.Machine
end

