-- ==== Sys2Proof/Machine/Aes.lean ====
section
/-! DEFINITION. The AES-128 wrapper (44_aes.md). It keeps no chaining value between commands (R180). -/

namespace Sys2Proof.Machine

/-- R184. -/
def aesKeyCommitEffect (g : Regs) : Regs := { g with keyValid := true }

/-- R185: NO_KEY while no key is committed; else DOUT takes the 16 output bytes in order (R182). -/
def aesEncryptEffect (g : Regs) : Regs :=
  if g.keyValid then { g with dout := unpackBlock (aes128Enc (packBlock g.key) (packBlock g.din)) }
  else raise .noKey g

/-- R186. -/
def aesDecryptEffect (g : Regs) : Regs :=
  if g.keyValid then { g with dout := unpackBlock (aes128Dec (packBlock g.key) (packBlock g.din)) }
  else raise .noKey g

/-- R187: KEY and DOUT become zero and KEY_VALID is cleared; DIN is kept. -/
def aesKeyClearEffect (g : Regs) : Regs :=
  { g with key := Vector.replicate 16 0x00, dout := Vector.replicate 16 0x00, keyValid := false }

/-- AES_KEY_COMMIT (R184). -/
def execAesKeyCommit (s : State) : Host.Outcome State Fault Refusal := .next (s.onRegs aesKeyCommitEffect)

/-- AES_ENCRYPT (R185). -/
def execAesEncrypt (s : State) : Host.Outcome State Fault Refusal := .next (s.onRegs aesEncryptEffect)

/-- AES_DECRYPT (R186). -/
def execAesDecrypt (s : State) : Host.Outcome State Fault Refusal := .next (s.onRegs aesDecryptEffect)

/-- AES_KEY_CLEAR (R187). -/
def execAesKeyClear (s : State) : Host.Outcome State Fault Refusal := .next (s.onRegs aesKeyClearEffect)

end Sys2Proof.Machine
end

