-- ==== Sys2Proof/Machine/BitField.lean ====
section
/-! DEFINITION. The bit-field packer and unpacker (45_bitfield.md). -/

namespace Sys2Proof.Machine

/-- `extractBits` on a legal field of width `w` at shift `s` (R203). -/
def extractField (a : Byte) (w s : Nat) : Byte := (a >>> s) &&& lowOnes w

/-- `fillBits` on a legal field of width `w` at shift `s` (R204). -/
def fillField (a : Byte) (w s : Nat) (v : Byte) : Byte := (a &&& ~~~(fieldMask w s)) ||| (v <<< s)

/-- The flag indices 0 to 7, in the order R205 and R206 take them. -/
def flagIndices : List (Fin 8) := [0, 1, 2, 3, 4, 5, 6, 7]

/-- `packFlags` (R205): from zero, the masks of the flags that are set are ORed in. -/
def packFlags (flags : Byte) (mask : Vector Byte 8) : Byte :=
  flagIndices.foldl (fun r i => if flags.getLsbD i.val then r ||| mask[i] else r) 0x00

/-- `unpackFlags` (R206): flag i is 1 when any bit of MASK[i] is set in the byte. -/
def unpackFlags (a : Byte) (mask : Vector Byte 8) : Byte :=
  flagIndices.foldl (fun r i => if a &&& mask[i] ≠ 0x00 then r ||| (0x01 <<< i.val) else r) 0x00

/-- R203. -/
def bfExtractEffect (g : Regs) : Regs :=
  if legalField g.bfW g.bfS then
    { g with bfRes := extractField g.bfA g.bfW.toNat (fieldShift g.bfS) }
  else raise .field g

/-- R204: an illegal field, or a value that does not fit, raises FIELD. -/
def bfFillEffect (g : Regs) : Regs :=
  if legalField g.bfW g.bfS then
    if g.bfB.toNat ≥ 1 <<< g.bfW.toNat then raise .field g
    else { g with bfRes := fillField g.bfA g.bfW.toNat (fieldShift g.bfS) g.bfB }
  else raise .field g

/-- R205. -/
def bfPackFlagsEffect (g : Regs) : Regs := { g with bfRes := packFlags g.bfB g.mask }

/-- R206. -/
def bfUnpackFlagsEffect (g : Regs) : Regs := { g with bfRes := unpackFlags g.bfA g.mask }

/-- BF_EXTRACT (R203). -/
def execBfExtract (s : State) : Host.Outcome State Fault Refusal := .next (s.onRegs bfExtractEffect)

/-- BF_FILL (R204). -/
def execBfFill (s : State) : Host.Outcome State Fault Refusal := .next (s.onRegs bfFillEffect)

/-- BF_PACK_FLAGS (R205). -/
def execBfPackFlags (s : State) : Host.Outcome State Fault Refusal := .next (s.onRegs bfPackFlagsEffect)

/-- BF_UNPACK_FLAGS (R206). -/
def execBfUnpackFlags (s : State) : Host.Outcome State Fault Refusal := .next (s.onRegs bfUnpackFlagsEffect)

end Sys2Proof.Machine
end

