-- ==== Sys2Proof/Machine/Control.lean ====
section
/-! DEFINITION. The commands of the control unit (40_control.md section 1). -/

namespace Sys2Proof.Machine

/-- R100. -/
def nopEffect (g : Regs) : Regs := g

/-- R101, R251: every piece of state of R42 takes its reset value. -/
def softResetEffect (_ : Regs) : Regs := Regs.reset

/-- R102: errors are acknowledged and nothing else changes. -/
def clrErrEffect (g : Regs) : Regs := g.acknowledge

/-- NOP (R100). -/
def execNop (s : State) : Host.Outcome State Fault Refusal := .next (s.onRegs nopEffect)

/-- SOFT_RESET (R101). -/
def execSoftReset (s : State) : Host.Outcome State Fault Refusal := .next (s.onRegs softResetEffect)

/-- CLR_ERR (R102). -/
def execClrErr (s : State) : Host.Outcome State Fault Refusal := .next (s.onRegs clrErrEffect)

end Sys2Proof.Machine
end

