-- ==== Sys2Proof/Machine/Crc.lean ====
section
/-! DEFINITION. The CRC-16 unit (41_crc16.md). -/

namespace Sys2Proof.Machine

/-- A 16-bit value with its bits in reverse order (R122). -/
def reverse16 (v : Word16) : Word16 := v.reverse

/-- A byte with its bits in reverse order (R122). -/
def reverse8 (v : Byte) : Byte := v.reverse

/-- `CRC_POLY_R`, derived from `CRC_POLY` (R5, R122). -/
def crcPolyR : Word16 := reverse16 Config.crcPoly

/-- One shift of the LSB-first register (R121). -/
def crcShift (t : Word16) : Word16 := if t.getLsbD 0 then (t >>> 1) ^^^ crcPolyR else t >>> 1

/-- `crc_step(s, b)` (R121). -/
def crcStep (s : Word16) (b : Byte) : Word16 := Nat.repeat crcShift 8 (s ^^^ b.setWidth 16)

/-- `crc_run(s, d)` (R121). -/
def crcRun (s : Word16) : List Byte → Word16
  | [] => s
  | b :: d => crcRun (crcStep s b) d

/-- One shift of the MSB-first register (R122). -/
def crcShiftMsb (t : Word16) : Word16 := if t.getLsbD 15 then (t <<< 1) ^^^ Config.crcPoly else t <<< 1

/-- The MSB-first definition that R122 compares R121 with: the input byte is bit-reversed when `CRC_REFIN`
says so and enters at the top of the register. The machine does not use it.
PRESUMED: notes/assumptions/11.md. -/
def crcStepMsb (s : Word16) (b : Byte) : Word16 :=
  Nat.repeat crcShiftMsb 8 (s ^^^ ((if Config.crcRefIn then reverse8 b else b).setWidth 16 <<< 8))

/-- The MSB-first register over a byte sequence (R122). -/
def crcRunMsb (s : Word16) : List Byte → Word16
  | [] => s
  | b :: d => crcRunMsb (crcStepMsb s b) d

/-- The result of the MSB-first definition: the final register bit-reversed when `CRC_REFOUT` says so, then
the final XOR (R122). PRESUMED: notes/assumptions/11.md. -/
def crcResMsb (s : Word16) : Word16 := (if Config.crcRefOut then reverse16 s else s) ^^^ Config.crcXorOut

/-- R124. -/
def crcInitEffect (g : Regs) : Regs := { g with crcS := Config.crcInit }

/-- R125. -/
def crcUpdateEffect (g : Regs) : Regs := { g with crcS := crcStep g.crcS g.opnd }

/-- `ok` of R126: both result bytes match the expected bytes, in wire order. -/
def crcMatches (g : Regs) : Bool :=
  lowByte (crcRes g.crcS) == g.crcExp0 && highByte (crcRes g.crcS) == g.crcExp1

/-- R126: CHK_OK is written even when CHECKSUM is raised. -/
def crcCheckEffect (g : Regs) : Regs := recordCheck (crcMatches g) g

/-- CRC_INIT (R124). -/
def execCrcInit (s : State) : Host.Outcome State Fault Refusal := .next (s.onRegs crcInitEffect)

/-- CRC_UPDATE (R125). -/
def execCrcUpdate (s : State) : Host.Outcome State Fault Refusal := .next (s.onRegs crcUpdateEffect)

/-- CRC_CHECK (R126). -/
def execCrcCheck (s : State) : Host.Outcome State Fault Refusal := .next (s.onRegs crcCheckEffect)

end Sys2Proof.Machine
end

