-- ==== Sys2Proof/Machine/Lrc.lean ====
section
/-! DEFINITION. The LRC-8 unit (42_lrc8.md). -/

namespace Sys2Proof.Machine

/-- `lrc(d)` (R140): the XOR of the bytes, seeded with `LRC_INIT`. -/
def lrc (d : List Byte) : Byte := d.foldl (fun acc b => acc ^^^ b) Config.lrcInit

/-- R141. -/
def lrcInitEffect (g : Regs) : Regs := { g with lrcS := Config.lrcInit }

/-- R142. -/
def lrcUpdateEffect (g : Regs) : Regs := { g with lrcS := g.lrcS ^^^ g.opnd }

/-- R143: CHK_OK is written even when CHECKSUM is raised. -/
def lrcCheckEffect (g : Regs) : Regs := recordCheck (g.lrcS == g.opnd) g

/-- LRC_INIT (R141). -/
def execLrcInit (s : State) : Host.Outcome State Fault Refusal := .next (s.onRegs lrcInitEffect)

/-- LRC_UPDATE (R142). -/
def execLrcUpdate (s : State) : Host.Outcome State Fault Refusal := .next (s.onRegs lrcUpdateEffect)

/-- LRC_CHECK (R143). -/
def execLrcCheck (s : State) : Host.Outcome State Fault Refusal := .next (s.onRegs lrcCheckEffect)

end Sys2Proof.Machine
end

