-- ==== Sys2Proof/Machine/Stuffing.lean ====
section
/-! DEFINITION. The byte stuffer and unstuffer (43_stuffing.md). -/

namespace Sys2Proof.Machine

/-- The two bytes the stuffer treats as reserved (R160). -/
def isReservedByte (b : Byte) : Bool := b == Config.marker || b == Config.esc

/-- `stuff1(b)` (R161). -/
def stuff1 (b : Byte) : List Byte := if isReservedByte b then [Config.esc, b ^^^ Config.escXor] else [b]

/-- `stuff(X)` (R161). -/
def stuff (x : List Byte) : List Byte := x.flatMap stuff1

/-- The output registers with no, one or two valid bytes: positions that are not valid hold 0x00 (R31). -/
def setSout (g : Regs) : List Byte → Regs
  | [] => { g with sout0 := 0x00, sout1 := 0x00, soutCnt := 0 }
  | [a] => { g with sout0 := a, sout1 := 0x00, soutCnt := 1 }
  | a :: b :: _ => { g with sout0 := a, sout1 := b, soutCnt := 2 }

/-- The valid output bytes, in output order (R31). -/
def Regs.validOut (g : Regs) : List Byte := [g.sout0, g.sout1].take g.soutCnt.toNat

/-- R162. That it is not the only command to leave the escape-pending state after a FORMAT error is settled in
`unstuffByteEffect`. -/
def stuffClearEffect (g : Regs) : Regs := { setSout g [] with escPending := false }

/-- R163: ESC_PENDING is neither read nor written. -/
def stuffByteEffect (g : Regs) : Regs := setSout g (stuff1 g.opnd)

/-- R164: with no escape pending an escape is taken, a bare MARKER is a FORMAT error and any other byte comes
out; after an escape only the transform of a reserved byte is accepted. DESIGN CHOICE, notes/assumptions/15.md:
with an escape pending, 0x5E and 0x5D are accepted and clear ESC_PENDING also after a FORMAT error on an earlier
byte, as this pseudocode, R25 and R32 have it; R162's corner case calls STUFF_CLEAR the only way, other than
reset, to leave that state. -/
def unstuffByteEffect (g : Regs) : Regs :=
  if g.escPending = false then
    if g.opnd = Config.esc then { setSout g [] with escPending := true }
    else if g.opnd = Config.marker then raise .format g
    else setSout g [g.opnd]
  else if isReservedByte (g.opnd ^^^ Config.escXor) then
    { setSout g [g.opnd ^^^ Config.escXor] with escPending := false }
  else raise .format g

/-- R165: an escape with nothing after it is a truncated frame. -/
def unstuffEndEffect (g : Regs) : Regs := if g.escPending then raise .format g else g

/-- STUFF_CLEAR (R162). -/
def execStuffClear (s : State) : Host.Outcome State Fault Refusal := .next (s.onRegs stuffClearEffect)

/-- STUFF_BYTE (R163). -/
def execStuffByte (s : State) : Host.Outcome State Fault Refusal := .next (s.onRegs stuffByteEffect)

/-- UNSTUFF_BYTE (R164). -/
def execUnstuffByte (s : State) : Host.Outcome State Fault Refusal := .next (s.onRegs unstuffByteEffect)

/-- UNSTUFF_END (R165). -/
def execUnstuffEnd (s : State) : Host.Outcome State Fault Refusal := .next (s.onRegs unstuffEndEffect)

end Sys2Proof.Machine
end

