-- ==== Sys2Proof/Machine/Bus.lean ====
section
/-! DEFINITION. The host's accesses (40_control.md sections 2 and 3): command dispatch, MemRead and MemWrite. -/

namespace Sys2Proof.Machine

/-- The rule a row of R83 names, as a change of the registers. The host accesses are no commands: no byte
decodes to them (R83), and their two arms here are never reached. -/
def commandEffect (i : Instr) (g : Regs) : Regs :=
  match i with
  | .nop => nopEffect g
  | .softReset => softResetEffect g
  | .clrErr => clrErrEffect g
  | .crcInit => crcInitEffect g
  | .crcUpdate => crcUpdateEffect g
  | .crcCheck => crcCheckEffect g
  | .lrcInit => lrcInitEffect g
  | .lrcUpdate => lrcUpdateEffect g
  | .lrcCheck => lrcCheckEffect g
  | .stuffClear => stuffClearEffect g
  | .stuffByte => stuffByteEffect g
  | .unstuffByte => unstuffByteEffect g
  | .unstuffEnd => unstuffEndEffect g
  | .aesKeyCommit => aesKeyCommitEffect g
  | .aesEncrypt => aesEncryptEffect g
  | .aesDecrypt => aesDecryptEffect g
  | .aesKeyClear => aesKeyClearEffect g
  | .bfExtract => bfExtractEffect g
  | .bfFill => bfFillEffect g
  | .bfPackFlags => bfPackFlagsEffect g
  | .bfUnpackFlags => bfUnpackFlagsEffect g
  | .rd _ => raise .illegalCmd g
  | .wr _ _ => raise .illegalCmd g

/-- A host write of byte `c` to CMD (R103): the command `c` runs in the same step, whatever STATUS.ERR holds;
a reserved byte raises ILLEGAL_CMD. The byte is stored nowhere. -/
def runCommand (c : Byte) (g : Regs) : Regs :=
  match decodeCommand c with
  | some i => commandEffect i g
  | none => raise .illegalCmd g

/-- `MemWrite(addr, 1, v)` (R105): a command, a KEY write (R107), a store into an RW register, or a refused
write to an RO or reserved address (R106). -/
def memWrite (a : Addr) (v : Byte) (g : Regs) : Regs :=
  match regAt a with
  | .cmd => runCommand v g
  | .key i => storeKey i v g
  | r => if r.access = .rw then storeReg r v g else raise .illegalAccess g

/-- RD (R104): the byte goes to the host and no register changes. -/
def execRd (addr : Addr) (s : State) : Host.Outcome State Fault Refusal :=
  .next (s.hostReceives (memRead addr s.regs))

/-- WR (R105). -/
def execWr (addr : Addr) (data : Byte) (s : State) : Host.Outcome State Fault Refusal :=
  .next (s.onRegs (memWrite addr data))

end Sys2Proof.Machine
end

