-- ==== Sys2Proof/Machine/Dispatch.lean ====
section
/-! DEFINITION. The meaning of each row of the opcode table. -/

namespace Sys2Proof.Machine

def exec (i : Instr) (s : State) : Host.Outcome State Fault Refusal :=
  match i with
  | .nop => Sys2Proof.Machine.execNop s
  | .softReset => Sys2Proof.Machine.execSoftReset s
  | .clrErr => Sys2Proof.Machine.execClrErr s
  | .crcInit => Sys2Proof.Machine.execCrcInit s
  | .crcUpdate => Sys2Proof.Machine.execCrcUpdate s
  | .crcCheck => Sys2Proof.Machine.execCrcCheck s
  | .lrcInit => Sys2Proof.Machine.execLrcInit s
  | .lrcUpdate => Sys2Proof.Machine.execLrcUpdate s
  | .lrcCheck => Sys2Proof.Machine.execLrcCheck s
  | .stuffClear => Sys2Proof.Machine.execStuffClear s
  | .stuffByte => Sys2Proof.Machine.execStuffByte s
  | .unstuffByte => Sys2Proof.Machine.execUnstuffByte s
  | .unstuffEnd => Sys2Proof.Machine.execUnstuffEnd s
  | .aesKeyCommit => Sys2Proof.Machine.execAesKeyCommit s
  | .aesEncrypt => Sys2Proof.Machine.execAesEncrypt s
  | .aesDecrypt => Sys2Proof.Machine.execAesDecrypt s
  | .aesKeyClear => Sys2Proof.Machine.execAesKeyClear s
  | .bfExtract => Sys2Proof.Machine.execBfExtract s
  | .bfFill => Sys2Proof.Machine.execBfFill s
  | .bfPackFlags => Sys2Proof.Machine.execBfPackFlags s
  | .bfUnpackFlags => Sys2Proof.Machine.execBfUnpackFlags s
  | .rd addr => Sys2Proof.Machine.execRd addr s
  | .wr addr data => Sys2Proof.Machine.execWr addr data s

end Sys2Proof.Machine
end

