-- ==== Sys2Proof/Machine/Step.lean ====
section
/-! DEFINITION. One step: the next event the host presents, handled whole (R60). -/

namespace Sys2Proof.Machine

/-- One step. With nothing pending every register keeps its value (R235). A reserved command byte is the
write to CMD that raises ILLEGAL_CMD (R103). A word that is no access is never given to JCB (R88). -/
def step (s : State) : Host.Outcome State Fault Refusal :=
  match s.nextEvent with
  | none => .next s
  | some .platformReset => .next s.takeReset
  | some (.access w) =>
    match decode w with
    | .ok i => exec i s.takeAccess
    | .error (.reservedCommand c) => exec (.wr 0x00 c) s.takeAccess
    | .error (.notAProgramWord w) => .refused (.notAProgramWord s.host.position w)

/-- `s` with one table row's word as the next thing the host presents. A program is loaded from outside the
machine (notes/assumptions/1.md), and this stands for that load. -/
def State.withFetchWord (s : State) (nbits w : Nat) : State :=
  { s with host := { s.host with pending := .access (hostWordOf nbits w) :: s.host.pending } }

end Sys2Proof.Machine
end

