-- ==== Sys2Proof/Machine/Script.lean ====
section
/-! DEFINITION. The script notation of R89 and the pseudo-instructions of R90: from one line of text to the
BUS16 words it stands for. JCB never sees a script, only the accesses its words stand for (R80). Where R89 and
R90 leave the text's form open, see notes/assumptions/12.md. -/

namespace Sys2Proof.Machine

/-- One line of a script: an access, a command, or a pseudo-instruction of R90. -/
inductive ScriptOp where
  | rd (a : Addr)
  | wr (a : Addr) (v : Byte)
  | command (c : Byte)
  | crcByte (b : Byte)
  | lrcByte (b : Byte)
  | lrcCmp (b : Byte)
  | crcCmp (e0 e1 : Byte)
  | stuff (b : Byte)
  | unstuff (b : Byte)
  | setKey (k : Block)
  | setBlock (d : Block)
  | extract (a w s : Byte)
  | fill (a w s v : Byte)
  | setMasks (m : Vector Byte 8)
  deriving DecidableEq, Repr

/-- `RD <reg>` is `{0, addr(reg), 0x00}` (R89). -/
def rdWord (a : Addr) : Word16 := busWord false a 0x00

/-- `WR <reg>, <imm8>` is `{1, addr(reg), imm8}` (R89). -/
def wrWord (a : Addr) (v : Byte) : Word16 := busWord true a v

/-- `<CMD-MNEMONIC>` alone is `WR CMD, <opcode>`, the write word 0x80cc (R88, R89). -/
def cmdWord (c : Byte) : Word16 := wrWord 0x00 c

/-- Writes of consecutive bytes from a base address. -/
def writeBytes (base : Nat) : List Byte → List Word16
  | [] => []
  | b :: bs => wrWord (BitVec.ofNat 7 base) b :: writeBytes (base + 1) bs

/-- The words of a line, in order: "none is merged or reordered" (R90). -/
def ScriptOp.words : ScriptOp → List Word16
  | .rd a => [rdWord a]
  | .wr a v => [wrWord a v]
  | .command c => [cmdWord c]
  | .crcByte b => [wrWord 0x02 b, cmdWord 0x11]
  | .lrcByte b => [wrWord 0x02 b, cmdWord 0x21]
  | .lrcCmp b => [wrWord 0x02 b, cmdWord 0x22]
  | .crcCmp e0 e1 => [wrWord 0x08 e0, wrWord 0x09 e1, cmdWord 0x12]
  | .stuff b => [wrWord 0x02 b, cmdWord 0x31]
  | .unstuff b => [wrWord 0x02 b, cmdWord 0x32]
  | .setKey k => writeBytes 0x20 k.toList ++ [cmdWord 0x40]
  | .setBlock d => writeBytes 0x30 d.toList
  | .extract a w s => [wrWord 0x10 a, wrWord 0x12 w, wrWord 0x13 s, cmdWord 0x50]
  | .fill a w s v => [wrWord 0x10 a, wrWord 0x11 v, wrWord 0x12 w, wrWord 0x13 s, cmdWord 0x51]
  | .setMasks m => writeBytes 0x18 m.toList

/-- A line as read: the operation, if the line holds one, and the byte a `; => v` comment states for a read. -/
structure ScriptLine where
  op? : Option ScriptOp
  expected? : Option Byte
  deriving DecidableEq, Repr

/-- White space inside a line. -/
def isBlank (c : Char) : Bool := c == ' ' || c == '\t' || c == '\r'

/-- The text without blanks at either end. -/
def trimBlanks (t : List Char) : List Char := ((t.dropWhile isBlank).reverse.dropWhile isBlank).reverse

/-- The pieces of the text between occurrences of `sep`; one piece when there is none. -/
def splitAtChar (sep : Char) : List Char → List (List Char)
  | [] => [[]]
  | c :: cs =>
    if c = sep then [] :: splitAtChar sep cs
    else match splitAtChar sep cs with
      | [] => [[c]]
      | p :: ps => (c :: p) :: ps

/-- The value of a hexadecimal digit, in capitals. -/
def hexDigit? (c : Char) : Option Nat :=
  if '0' ≤ c ∧ c ≤ '9' then some (c.toNat - '0'.toNat)
  else if 'A' ≤ c ∧ c ≤ 'F' then some (c.toNat - 'A'.toNat + 10)
  else none

/-- The number a digit string denotes in a base of at most 16; `none` on the empty string or a bad digit. -/
def digits? (base : Nat) (t : List Char) : Option Nat :=
  if t = [] then none
  else t.foldl (fun acc c =>
    match acc, hexDigit? c with
    | some n, some d => if d < base then some (n * base + d) else none
    | _, _ => none) (some 0)

/-- `0x` and hexadecimal digits (R7, R89), below `limit`. -/
def hex? (limit : Nat) : List Char → Option Nat
  | '0' :: 'X' :: ds =>
    match digits? 16 ds with
    | some n => if n < limit then some n else none
    | none => none
  | _ => none

/-- `<imm8>`: a byte, written `0x..` (R89). -/
def imm8? (t : List Char) : Option Byte := (hex? 256 t).map (BitVec.ofNat 8)

/-- A width or start operand of EXTRACT and FILL: `0x..`, or decimal as program P4 writes it. -/
def small? (t : List Char) : Option Byte :=
  match imm8? t with
  | some b => some b
  | none =>
    match digits? 10 t with
    | some n => if n < 256 then some (BitVec.ofNat 8 n) else none
    | none => none

/-- The registers of R23 whose name carries no index. -/
def plainRegNames : List (String × RegName) :=
  [("CMD", .cmd), ("STATUS", .status), ("OPND", .opnd), ("CRC_S_LO", .crcSLo), ("CRC_S_HI", .crcSHi),
   ("CRC_OUT0", .crcOut0), ("CRC_OUT1", .crcOut1), ("CRC_EXP0", .crcExp0), ("CRC_EXP1", .crcExp1)] ++
  [("LRC_S", .lrcS), ("SOUT0", .sout0), ("SOUT1", .sout1), ("SOUT_CNT", .soutCnt), ("BF_A", .bfA),
   ("BF_B", .bfB), ("BF_W", .bfW), ("BF_S", .bfS), ("BF_RES", .bfRes)]

/-- How the indices 0 to 15 are written in a register name. -/
def indexNames : List String :=
  ["0", "1", "2", "3", "4", "5", "6", "7", "8", "9", "10", "11", "12", "13", "14", "15"]

/-- The index behind a register name's stem, if it is written as `indexNames` writes one. -/
def index? (stem t : List Char) : Option Nat :=
  if stem.isPrefixOf t then indexNames.findIdx? fun n => n.toList == t.drop stem.length else none

/-- A register name of R23, with the index in the name (R89). -/
def regName? (t : List Char) : Option RegName :=
  match plainRegNames.find? fun r => r.1.toList == t with
  | some r => some r.2
  | none =>
    match index? "MASK".toList t, index? "KEY".toList t, index? "DIN".toList t, index? "DOUT".toList t with
    | some n, _, _, _ => if h : n < 8 then some (.mask ⟨n, h⟩) else none
    | none, some n, _, _ => if h : n < 16 then some (.key ⟨n, h⟩) else none
    | none, none, some n, _ => if h : n < 16 then some (.din ⟨n, h⟩) else none
    | none, none, none, some n => if h : n < 16 then some (.dout ⟨n, h⟩) else none
    | none, none, none, none => none

/-- `<reg>`: a register name or a 7-bit hex address (R89). -/
def reg? (t : List Char) : Option Addr :=
  match regName? t with
  | some r => r.addr?
  | none => (hex? 128 t).map (BitVec.ofNat 7)

/-- All of a list of operands as bytes. -/
def imm8s? : List (List Char) → Option (List Byte)
  | [] => some []
  | t :: ts =>
    match imm8? t, imm8s? ts with
    | some b, some bs => some (b :: bs)
    | _, _ => none

/-- Exactly `n` bytes as an array. -/
def bytesOf? (n : Nat) (ts : List (List Char)) : Option (Vector Byte n) :=
  match imm8s? ts with
  | some bs => if h : bs.toArray.size = n then some ⟨bs.toArray, h⟩ else none
  | none => none

/-- The opcode of a command mnemonic (R83, R89). -/
def opcodeOf? (m : List Char) : Option Byte :=
  (opcodeMap.find? fun row => row.2.mnemonic.toList == m).map fun row => row.1

/-- An operation from its mnemonic and its operands, both in capitals (R89, R90). -/
def scriptOp? (m : List Char) (args : List (List Char)) : Option ScriptOp :=
  if m = "RD".toList then
    match args with
    | [r] => (reg? r).map .rd
    | _ => none
  else if m = "WR".toList then
    match args with
    | [r, v] => match reg? r, imm8? v with | some a, some b => some (.wr a b) | _, _ => none
    | _ => none
  else if m = "SET_KEY".toList then (bytesOf? 16 args).map .setKey
  else if m = "SET_BLOCK".toList then (bytesOf? 16 args).map .setBlock
  else if m = "SET_MASKS".toList then (bytesOf? 8 args).map .setMasks
  else if m = "EXTRACT".toList then
    match args with
    | [a, w, s] =>
      match imm8? a, small? w, small? s with
      | some a, some w, some s => some (.extract a w s)
      | _, _, _ => none
    | _ => none
  else if m = "FILL".toList then
    match args with
    | [a, w, s, v] =>
      match imm8? a, small? w, small? s, imm8? v with
      | some a, some w, some s, some v => some (.fill a w s v)
      | _, _, _, _ => none
    | _ => none
  else
    match args, imm8s? args with
    | [], _ => (opcodeOf? m).map .command
    | _, some [b] =>
      if m = "CRC_BYTE".toList then some (.crcByte b)
      else if m = "LRC_BYTE".toList then some (.lrcByte b)
      else if m = "LRC_CMP".toList then some (.lrcCmp b)
      else if m = "STUFF".toList then some (.stuff b)
      else if m = "UNSTUFF".toList then some (.unstuff b)
      else none
    | _, some [e0, e1] => if m = "CRC_CMP".toList then some (.crcCmp e0 e1) else none
    | _, _ => none

/-- The byte a comment of the form `=> v` states (R89); other comments state none. -/
def expectedByte? (comment : List Char) : Option Byte :=
  match trimBlanks comment with
  | '=' :: '>' :: t => imm8? (trimBlanks t)
  | _ => none

/-- The text before the first `;`, and the comment after it if there is one (R89). -/
def cutComment : List Char → List Char × Option (List Char)
  | [] => ([], none)
  | ';' :: cs => ([], some cs)
  | c :: cs => (c :: (cutComment cs).1, (cutComment cs).2)

/-- Whether a line reads a register, so that its comment may state the byte read (R89). -/
def ScriptOp.isRead : ScriptOp → Bool
  | .rd _ => true
  | .wr _ _ | .command _ | .crcByte _ | .lrcByte _ | .lrcCmp _ | .crcCmp _ _ | .stuff _ | .unstuff _ => false
  | .setKey _ | .setBlock _ | .extract _ _ _ | .fill _ _ _ _ | .setMasks _ => false

/-- One line of a script, case-insensitively (R89); `none` when it is no line of the notation. -/
def readLine? (line : List Char) : Option ScriptLine :=
  let parts := cutComment (line.map Char.toUpper)
  let text := trimBlanks parts.1
  if text = [] then some { op? := none, expected? := none }
  else
    let m := text.takeWhile fun c => !isBlank c
    let rest := trimBlanks (text.drop m.length)
    let args := if rest = [] then [] else (splitAtChar ',' rest).map trimBlanks
    (scriptOp? m args).map fun op =>
      { op? := some op, expected? := if op.isRead then parts.2.bind expectedByte? else none }

/-- The words of a whole script, its lines first to last (R87, R89); `none` when a line is refused. -/
def assemble? : List (List Char) → Option (List Word16)
  | [] => some []
  | l :: ls =>
    match readLine? l, assemble? ls with
    | some line, some ws =>
      match line.op? with
      | some op => some (op.words ++ ws)
      | none => some ws
    | _, _ => none

/-- The program a script stands for, as the accesses its words are (R87). -/
def programOf? (lines : List (List Char)) : Option (List HostWord) :=
  (assemble? lines).map fun ws => ws.map HostWord.bus16

end Sys2Proof.Machine
end

