-- ==== Sys2Proof/Safety.lean ====
section
/-! DEFINITION. The terms claims are stated in: what an access leaves unchanged, what it records, which access
runs which command, and the invariant of the registers. -/

namespace Sys2Proof.Machine

/-- From `s` to `t`, no register that an address outside `addrs` reads has changed, the fields of STATUS (read
at 0x01) and the views among them; nor has the key, which no address reads (R37); nor the host's side (R108). -/
def onlyChanges (addrs : List Addr) (s t : State) : Prop :=
  (∀ a, a ∉ addrs → memRead a t.regs = memRead a s.regs) ∧ t.regs.key = s.regs.key ∧ t.host = s.host

/-- ERR and ERR_OVF are as before: no error was recorded. -/
def keepsErrors (s t : State) : Prop := t.regs.err = s.regs.err ∧ t.regs.errOvf = s.regs.errOvf

/-- The three STATUS fields that are no error record are as before. -/
def keepsUnitFlags (s t : State) : Prop :=
  t.regs.keyValid = s.regs.keyValid ∧ t.regs.escPending = s.regs.escPending ∧ t.regs.chkOk = s.regs.chkOk

/-- The error `e` has been recorded as R223 says. -/
def recordsError (e : ErrorName) (s t : State) : Prop :=
  (s.regs.err = 0 → t.regs.err = e.code ∧ t.regs.errOvf = s.regs.errOvf) ∧
  (s.regs.err ≠ 0 → t.regs.err = s.regs.err ∧ t.regs.errOvf = true)

/-- The access raised `e` and did nothing else (R10, R220). -/
def raisesOnly (e : ErrorName) (s t : State) : Prop :=
  recordsError e s t ∧ keepsUnitFlags s t ∧ onlyChanges [0x01] s t

/-- The access `i` runs the command `c`: it is the command byte, or the write of it to CMD (R80, R103). -/
def runsCommand (i c : Instr) : Prop :=
  i = c ∨ ∃ b : Byte, i = .wr 0x00 b ∧ decodeCommand b = some c

/-- The addresses whose access code is RW (R23). -/
def isRwAddr (a : Addr) : Prop :=
  a ∈ [0x02, 0x04, 0x05, 0x08, 0x09, 0x0A, 0x10, 0x11, 0x12, 0x13] ∨
  (0x18 ≤ a.toNat ∧ a.toNat ≤ 0x1F) ∨ (0x30 ≤ a.toNat ∧ a.toNat ≤ 0x3F)

/-- The reserved addresses (R40). -/
def isReservedAddr (a : Addr) : Prop :=
  a ∈ [0x03, 0x0B, 0x0F] ∨ (0x15 ≤ a.toNat ∧ a.toNat ≤ 0x17) ∨ 0x50 ≤ a.toNat

/-- The addresses whose access code is RO (R23, R40). -/
def isRoAddr (a : Addr) : Prop :=
  a ∈ [0x01, 0x06, 0x07, 0x0C, 0x0D, 0x0E, 0x14] ∨ (0x40 ≤ a.toNat ∧ a.toNat ≤ 0x4F)

/-- The reserved command bytes, as R84 lists them. -/
def isReservedCommand (c : Byte) : Prop :=
  (0x03 ≤ c.toNat ∧ c.toNat ≤ 0x0F) ∨ (0x13 ≤ c.toNat ∧ c.toNat ≤ 0x1F) ∨ (0x23 ≤ c.toNat ∧ c.toNat ≤ 0x2F) ∨
  (0x34 ≤ c.toNat ∧ c.toNat ≤ 0x3F) ∨ (0x44 ≤ c.toNat ∧ c.toNat ≤ 0x4F) ∨ (0x54 ≤ c.toNat ∧ c.toNat ≤ 0x5F) ∨
  0x60 ≤ c.toNat

/-- What no access ever breaks: ERR is never the reserved code 7 (R221, X6), ERR_OVF is set only beside a
recorded error (R25), SOUT_CNT is never 3 (R31, X7), and an output position that is not valid holds 0x00 (R31). -/
def Regs.Inv (g : Regs) : Prop :=
  g.err ≠ 7 ∧ (g.errOvf = true → g.err ≠ 0) ∧ g.soutCnt ≠ 3 ∧
  (g.soutCnt.toNat ≤ 1 → g.sout1 = 0x00) ∧ (g.soutCnt.toNat ≤ 0 → g.sout0 = 0x00)

/-- The same state with another key: what a host cannot see (R37). -/
def State.withKey (k : Block) (s : State) : State := s.onRegs fun g => { g with key := k }

/-- The same state with another error record. -/
def State.withErrors (e : BitVec 3) (o : Bool) (s : State) : State :=
  s.onRegs fun g => { g with err := e, errOvf := o }

/-- Feeding a byte sequence to a byte-stream command: for each byte, `WR OPND, b` and then the command (R90). -/
def feed (c : Byte) : List Byte → Regs → Regs
  | [], g => g
  | b :: d, g => feed c d (memWrite 0x00 c (memWrite 0x02 b g))

/-- The same, collecting the valid SOUT bytes after each command, in order (R31, R166). -/
def stream (c : Byte) : List Byte → Regs → List Byte × Regs
  | [], g => ([], g)
  | b :: d, g =>
    let g' := memWrite 0x00 c (memWrite 0x02 b g)
    (g'.validOut ++ (stream c d g').1, (stream c d g').2)

/-- The host's writes of a whole block to consecutive addresses, byte i to base + i (R90 `SET_BLOCK`). -/
def writeBlock (base : Nat) (b : Block) (g : Regs) : Regs :=
  (List.finRange 16).foldl (fun acc i => memWrite (BitVec.ofNat 7 (base + i.val)) b[i] acc) g

end Sys2Proof.Machine
end

