-- ==== Sys2Proof/Certificates/Slice0/Obligations.lean ====
section
/-! DEFINITION. The statements for the provers. -/

open Sys2Proof Sys2Proof.Machine

/-! ### Reset and the control unit -/

/-- R42: the value of every piece of state after a reset, most of it by what the host then reads (R23). -/
def Obligations.ResetLeavesEveryRegisterAtItsValue : Prop :=
  Regs.reset.err = 0 ∧ Regs.reset.errOvf = false ∧ Regs.reset.keyValid = false ∧
  Regs.reset.escPending = false ∧ Regs.reset.chkOk = false ∧
  Regs.reset.crcS = 0xFFFF ∧ Regs.reset.lrcS = 0x55 ∧ (∀ i : Fin 16, Regs.reset.key[i] = 0x00) ∧
  (∀ a : Addr, a ∉ [0x04, 0x05, 0x0A] → memRead a Regs.reset = 0x00) ∧
  State.reset.regs = Regs.reset

/-- R250, R251: the platform's reset puts every register at its reset value, and SOFT_RESET leaves exactly the
same registers; the host's remaining program, position and received bytes are its own. That the reset reaches JCB
as an event between accesses is the model's choice, notes/assumptions/6.md. -/
def Obligations.SoftResetEqualsHardwareReset : Prop :=
  ∀ (s : State) (es : List Event), s.host.pending = .platformReset :: es →
    ∃ t u, step s = .next t ∧ exec .softReset s = .next u ∧ t.regs = Regs.reset ∧ u.regs = t.regs ∧
      t.host.pending = es ∧ t.host.position = s.host.position ∧ t.host.reads = s.host.reads

/-- R101: SOFT_RESET. -/
def Obligations.SoftResetRestoresTheResetState : Prop :=
  decode (.cmd8 0x01) = .ok .softReset ∧
  ∀ s, ∃ t, exec .softReset s = .next t ∧ t.host = s.host ∧ t.regs.status = 0x00 ∧
    t.regs.crcS = 0xFFFF ∧ t.regs.lrcS = 0x55 ∧ (∀ i : Fin 16, t.regs.key[i] = 0x00) ∧
    (∀ a : Addr, a ∉ [0x04, 0x05, 0x0A] → memRead a t.regs = 0x00)

/-- R100: NOP changes nothing. -/
def Obligations.NopChangesNothing : Prop :=
  decode (.cmd8 0x00) = .ok .nop ∧ ∀ s, exec .nop s = .next s

/-- R102: CLR_ERR clears the error record and nothing else. -/
def Obligations.ClrErrClearsOnlyTheErrorRecord : Prop :=
  decode (.cmd8 0x02) = .ok .clrErr ∧
  ∀ s, ∃ t, exec .clrErr s = .next t ∧ t.regs.err = 0 ∧ t.regs.errOvf = false ∧
    keepsUnitFlags s t ∧ onlyChanges [0x01] s t

/-! ### Command dispatch and the host's accesses -/

/-- R103: a write to CMD runs the command its byte selects, or raises ILLEGAL_CMD and does nothing else; CMD
reads 0x00 afterwards, and the same holds whatever STATUS.ERR is. -/
def Obligations.CommandWriteRunsTheCommand : Prop :=
  ∀ (c : Byte) (s : State), ∃ t, exec (.wr 0x00 c) s = .next t ∧ memRead 0x00 t.regs = 0x00 ∧
    (∀ i, decodeCommand c = some i → exec i s = .next t) ∧
    (decodeCommand c = none → raisesOnly .illegalCmd s t)

/-- R84: the reserved command bytes are the listed ones, and writing one to CMD changes no state other than the
error record and raises ILLEGAL_CMD. -/
def Obligations.ReservedCommandBytesRaise : Prop :=
  (∀ c, decodeCommand c = none ↔ isReservedCommand c) ∧
  ∀ c s, isReservedCommand c → ∃ t, exec (.wr 0x00 c) s = .next t ∧ raisesOnly .illegalCmd s t

/-- R104: what MemRead returns at each address, and that it changes nothing. The byte goes to the host, the
model's own field `reads` (notes/assumptions/4.md). -/
def Obligations.ReadReturnsTheRegisterAndChangesNothing : Prop :=
  ∀ (a : Addr) (s : State), ∃ t v, exec (.rd a) s = .next t ∧ t.regs = s.regs ∧
    t.host.reads = v :: s.host.reads ∧ t.host.pending = s.host.pending ∧ t.host.position = s.host.position ∧
    (a = 0x00 → v = 0x00) ∧
    (a = 0x01 → v.extractLsb' 0 3 = s.regs.err ∧ v.getLsbD 3 = s.regs.errOvf ∧ v.getLsbD 4 = s.regs.keyValid ∧
      v.getLsbD 5 = s.regs.escPending ∧ v.getLsbD 6 = s.regs.chkOk ∧ v.getLsbD 7 = false) ∧
    (a = 0x02 → v = s.regs.opnd) ∧
    (a = 0x04 → v = s.regs.crcS.extractLsb' 0 8) ∧ (a = 0x05 → v = s.regs.crcS.extractLsb' 8 8) ∧
    (a = 0x06 → v = (s.regs.crcS ^^^ 0xFFFF).extractLsb' 0 8) ∧
    (a = 0x07 → v = (s.regs.crcS ^^^ 0xFFFF).extractLsb' 8 8) ∧
    (a = 0x08 → v = s.regs.crcExp0) ∧ (a = 0x09 → v = s.regs.crcExp1) ∧ (a = 0x0A → v = s.regs.lrcS) ∧
    (a = 0x0C → v = s.regs.sout0) ∧ (a = 0x0D → v = s.regs.sout1) ∧
    (a = 0x0E → v.extractLsb' 0 2 = s.regs.soutCnt ∧ v.extractLsb' 2 6 = 0) ∧
    (a = 0x10 → v = s.regs.bfA) ∧ (a = 0x11 → v = s.regs.bfB) ∧ (a = 0x12 → v = s.regs.bfW) ∧
    (a = 0x13 → v = s.regs.bfS) ∧ (a = 0x14 → v = s.regs.bfRes) ∧
    (∀ i : Fin 8, a.toNat = 0x18 + i.val → v = s.regs.mask[i]) ∧
    (∀ i : Fin 16, a.toNat = 0x20 + i.val → v = 0x00) ∧
    (∀ i : Fin 16, a.toNat = 0x30 + i.val → v = s.regs.din[i]) ∧
    (∀ i : Fin 16, a.toNat = 0x40 + i.val → v = s.regs.dout[i]) ∧
    (isReservedAddr a → v = 0x00)

/-- R67: a read records no error and changes no register, and two reads of one address with no write between
them return the same byte. The bytes go to the model's own field `reads` (notes/assumptions/4.md). -/
def Obligations.ReadsAreIdempotent : Prop :=
  ∀ (a : Addr) (s : State), ∃ t u v, exec (.rd a) s = .next t ∧ exec (.rd a) t = .next u ∧
    t.regs = s.regs ∧ u.regs = s.regs ∧ u.host.reads = v :: v :: s.host.reads

/-- R105 and R27: a write to an RW address stores all 8 bits there and changes no other register. A half of
CRC_S is seen in one byte of the CRC_OUT view too. -/
def Obligations.WriteStoresAnRwRegister : Prop :=
  ∀ (a : Addr) (v : Byte) (s : State), isRwAddr a → ∃ t, exec (.wr a v) s = .next t ∧
    memRead a t.regs = v ∧ onlyChanges [a, if a = 0x04 then 0x06 else if a = 0x05 then 0x07 else a] s t

/-- R106: a write to an RO or a reserved address is discarded and raises ILLEGAL_ACCESS. -/
def Obligations.RefusedWriteRaisesIllegalAccess : Prop :=
  ∀ (a : Addr) (v : Byte) (s : State), isRoAddr a ∨ isReservedAddr a →
    ∃ t, exec (.wr a v) s = .next t ∧ raisesOnly .illegalAccess s t

/-- R107: a write to KEY[i] stores the byte and clears KEY_VALID, and changes nothing else. -/
def Obligations.KeyWriteStoresAndInvalidates : Prop :=
  ∀ (i : Fin 16) (v : Byte) (s : State), ∃ t, exec (.wr (BitVec.ofNat 7 (0x20 + i.val)) v) s = .next t ∧
    (∀ j : Fin 16, t.regs.key[j] = if j = i then v else s.regs.key[j]) ∧ t.regs.keyValid = false ∧
    keepsErrors s t ∧ t.regs.escPending = s.regs.escPending ∧ t.regs.chkOk = s.regs.chkOk ∧
    (∀ a, a ≠ 0x01 → memRead a t.regs = memRead a s.regs) ∧ t.host = s.host

/-- R23: every address names at most one register and every register but `reserved` has one address; the
reserved addresses are those of R40, and the access codes are those of the map. -/
def Obligations.RegisterMapNamesEachRegisterOnce : Prop :=
  (∀ r a, r.addr? = some a ↔ regAt a = r ∧ r ≠ .reserved) ∧
  (∀ a, regAt a = .reserved ↔ isReservedAddr a) ∧
  (∀ a, (regAt a).access = .rw ↔ isRwAddr a) ∧ (∀ a, (regAt a).access = .ro ↔ isRoAddr a) ∧
  (∀ a, (regAt a).access = .wo ↔ 0x20 ≤ a.toNat ∧ a.toNat ≤ 0x2F) ∧ (∀ a, (regAt a).access = .port ↔ a = 0x00)

/-! ### The CRC unit -/

/-- R124: CRC_INIT. -/
def Obligations.CrcInitLoadsTheInitialValue : Prop :=
  decode (.cmd8 0x10) = .ok .crcInit ∧
  ∀ s, ∃ t, exec .crcInit s = .next t ∧ t.regs.crcS = 0xFFFF ∧ memRead 0x06 t.regs = 0x00 ∧
    memRead 0x07 t.regs = 0x00 ∧ onlyChanges [0x04, 0x05, 0x06, 0x07] s t

/-- R125: CRC_UPDATE feeds OPND to the register; the rule's example and its zero corner case. -/
def Obligations.CrcUpdateFeedsOneByte : Prop :=
  decode (.cmd8 0x11) = .ok .crcUpdate ∧ crcStep 0xFFFF 0x50 = 0x5D02 ∧ crcStep 0x0000 0x00 = 0x0000 ∧
  ∀ s, ∃ t, exec .crcUpdate s = .next t ∧ t.regs.crcS = crcStep s.regs.crcS s.regs.opnd ∧
    t.regs.opnd = s.regs.opnd ∧ onlyChanges [0x04, 0x05, 0x06, 0x07] s t

/-- R126: CRC_CHECK compares the two result bytes with the expected bytes in wire order, writes CHK_OK in either
case, and raises CHECKSUM on a mismatch. -/
def Obligations.CrcCheckComparesInWireOrder : Prop :=
  decode (.cmd8 0x12) = .ok .crcCheck ∧
  ∀ s, ∃ t, exec .crcCheck s = .next t ∧ onlyChanges [0x01] s t ∧
    t.regs.keyValid = s.regs.keyValid ∧ t.regs.escPending = s.regs.escPending ∧
    (t.regs.chkOk = true ↔ (s.regs.crcS ^^^ 0xFFFF).extractLsb' 0 8 = s.regs.crcExp0 ∧
      (s.regs.crcS ^^^ 0xFFFF).extractLsb' 8 8 = s.regs.crcExp1) ∧
    (t.regs.chkOk = true → keepsErrors s t) ∧ (t.regs.chkOk = false → recordsError .checksum s t)

/-- R122: `CRC_POLY_R` is the reversed polynomial, the LSB-first register is the bit-reverse of the MSB-first
register at every step, and both forms give one result. The MSB-first form is the model's text of what R122
describes from general knowledge (notes/assumptions/11.md). -/
def Obligations.ReflectedCrcEqualsMsbFirstCrc : Prop :=
  crcPolyR = 0x8408 ∧
  (∀ s b, reverse16 (crcStep s b) = crcStepMsb (reverse16 s) b) ∧
  (∀ s d, reverse16 (crcRun s d) = crcRunMsb (reverse16 s) d) ∧
  (∀ s d, crcRes (crcRun s d) = crcResMsb (crcRunMsb (reverse16 s) d))

/-- R127: for every byte sequence fed after CRC_INIT, the streaming law, the residue 0xF0B8 after the two result
bytes are fed as well, and the round trip through CRC_EXP and CRC_CHECK; and the check value of "123456789". -/
def Obligations.CrcStreamLaws : Prop :=
  crcRes (crcRun 0xFFFF [0x31, 0x32, 0x33, 0x34, 0x35, 0x36, 0x37, 0x38, 0x39]) = 0x906E ∧
  ∀ (d : List Byte) (g : Regs), ∃ h, h = feed 0x11 d (memWrite 0x00 0x10 g) ∧
    h.crcS = crcRun 0xFFFF d ∧ h.err = g.err ∧ h.errOvf = g.errOvf ∧
    (feed 0x11 [memRead 0x06 h, memRead 0x07 h] h).crcS = 0xF0B8 ∧
    ∃ k, k = memWrite 0x00 0x12 (memWrite 0x09 (memRead 0x07 h) (memWrite 0x08 (memRead 0x06 h) h)) ∧
      k.chkOk = true ∧ k.err = g.err ∧ k.errOvf = g.errOvf

/-! ### The LRC unit -/

/-- R141: LRC_INIT. -/
def Obligations.LrcInitLoadsTheSeed : Prop :=
  decode (.cmd8 0x20) = .ok .lrcInit ∧ lrc [] = 0x55 ∧
  ∀ s, ∃ t, exec .lrcInit s = .next t ∧ t.regs.lrcS = 0x55 ∧ onlyChanges [0x0A] s t

/-- R142: LRC_UPDATE. -/
def Obligations.LrcUpdateXorsOneByte : Prop :=
  decode (.cmd8 0x21) = .ok .lrcUpdate ∧
  ∀ s, ∃ t, exec .lrcUpdate s = .next t ∧ t.regs.lrcS = s.regs.lrcS ^^^ s.regs.opnd ∧ onlyChanges [0x0A] s t

/-- R143: LRC_CHECK compares LRC_S with OPND, writes CHK_OK in either case, and raises CHECKSUM on a mismatch. -/
def Obligations.LrcCheckComparesWithOpnd : Prop :=
  decode (.cmd8 0x22) = .ok .lrcCheck ∧
  ∀ s, ∃ t, exec .lrcCheck s = .next t ∧ onlyChanges [0x01] s t ∧
    t.regs.keyValid = s.regs.keyValid ∧ t.regs.escPending = s.regs.escPending ∧
    (t.regs.chkOk = true ↔ s.regs.lrcS = s.regs.opnd) ∧
    (t.regs.chkOk = true → keepsErrors s t) ∧ (t.regs.chkOk = false → recordsError .checksum s t)

/-- R144, over the unit itself: feeding S after LRC_INIT leaves `lrc(S)`; feeding that byte too leaves zero; and
the LRC of a concatenation. -/
def Obligations.LrcStreamLaws : Prop :=
  (∀ (x : List Byte) (g : Regs), (feed 0x21 x (memWrite 0x00 0x20 g)).lrcS = lrc x ∧
    (feed 0x21 (x ++ [lrc x]) (memWrite 0x00 0x20 g)).lrcS = 0x00) ∧
  ∀ x y : List Byte, lrc (x ++ y) = lrc x ^^^ lrc y ^^^ 0x55

/-! ### The stuffing unit -/

/-- R162: STUFF_CLEAR. -/
def Obligations.StuffClearEmptiesTheOutput : Prop :=
  decode (.cmd8 0x30) = .ok .stuffClear ∧
  ∀ s, ∃ t, exec .stuffClear s = .next t ∧ t.regs.escPending = false ∧ memRead 0x0C t.regs = 0x00 ∧
    memRead 0x0D t.regs = 0x00 ∧ memRead 0x0E t.regs = 0x00 ∧ keepsErrors s t ∧
    t.regs.keyValid = s.regs.keyValid ∧ t.regs.chkOk = s.regs.chkOk ∧ onlyChanges [0x01, 0x0C, 0x0D, 0x0E] s t

/-- R163: STUFF_BYTE escapes 0x7E and 0x7D and passes every other byte; no flag changes. -/
def Obligations.StuffByteEscapesReservedBytes : Prop :=
  decode (.cmd8 0x31) = .ok .stuffByte ∧
  ∀ s, ∃ t, exec .stuffByte s = .next t ∧ onlyChanges [0x0C, 0x0D, 0x0E] s t ∧
    (s.regs.opnd = 0x7E ∨ s.regs.opnd = 0x7D → memRead 0x0C t.regs = 0x7D ∧
      memRead 0x0D t.regs = s.regs.opnd ^^^ 0x20 ∧ memRead 0x0E t.regs = 0x02) ∧
    (s.regs.opnd ≠ 0x7E ∧ s.regs.opnd ≠ 0x7D → memRead 0x0C t.regs = s.regs.opnd ∧
      memRead 0x0D t.regs = 0x00 ∧ memRead 0x0E t.regs = 0x01)

/-- R164: UNSTUFF_BYTE, the five cases of its pseudocode. That the fourth case holds after a FORMAT error too,
against R162's corner case, is the model's choice, notes/assumptions/15.md. -/
def Obligations.UnstuffByteUndoesOneByte : Prop :=
  decode (.cmd8 0x32) = .ok .unstuffByte ∧
  ∀ s, ∃ t, exec .unstuffByte s = .next t ∧
    (s.regs.escPending = false ∧ s.regs.opnd = 0x7D → t.regs.escPending = true ∧ memRead 0x0C t.regs = 0x00 ∧
      memRead 0x0D t.regs = 0x00 ∧ memRead 0x0E t.regs = 0x00) ∧
    (s.regs.escPending = false ∧ s.regs.opnd = 0x7E → raisesOnly .format s t) ∧
    (s.regs.escPending = false ∧ s.regs.opnd ≠ 0x7D ∧ s.regs.opnd ≠ 0x7E → t.regs.escPending = false ∧
      memRead 0x0C t.regs = s.regs.opnd ∧ memRead 0x0D t.regs = 0x00 ∧ memRead 0x0E t.regs = 0x01) ∧
    (s.regs.escPending = true ∧ (s.regs.opnd = 0x5E ∨ s.regs.opnd = 0x5D) → t.regs.escPending = false ∧
      memRead 0x0C t.regs = s.regs.opnd ^^^ 0x20 ∧ memRead 0x0D t.regs = 0x00 ∧ memRead 0x0E t.regs = 0x01) ∧
    (s.regs.escPending = true ∧ s.regs.opnd ≠ 0x5E ∧ s.regs.opnd ≠ 0x5D → raisesOnly .format s t) ∧
    (raisesOnly .format s t ∨ keepsErrors s t ∧ t.regs.keyValid = s.regs.keyValid ∧
      t.regs.chkOk = s.regs.chkOk ∧ onlyChanges [0x01, 0x0C, 0x0D, 0x0E] s t)

/-- R165: UNSTUFF_END raises FORMAT exactly when an escape is pending, and otherwise changes nothing. -/
def Obligations.UnstuffEndRejectsAPendingEscape : Prop :=
  decode (.cmd8 0x33) = .ok .unstuffEnd ∧
  ∀ s, ∃ t, exec .unstuffEnd s = .next t ∧ (s.regs.escPending = false → t = s) ∧
    (s.regs.escPending = true → raisesOnly .format s t)

/-- R166 law 1, over the unit itself: stuffing any byte sequence and unstuffing the output, with no escape
pending at the start, gives the sequence back and records no error. -/
def Obligations.UnstuffAfterStuffIsTheIdentity : Prop :=
  ∀ (x : List Byte) (g : Regs), g.escPending = false →
    (stream 0x31 x g).1 = stuff x ∧
    (stream 0x32 (stream 0x31 x g).1 (stream 0x31 x g).2).1 = x ∧
    (memWrite 0x00 0x33 (stream 0x32 (stream 0x31 x g).1 (stream 0x31 x g).2).2).err = g.err ∧
    (memWrite 0x00 0x33 (stream 0x32 (stream 0x31 x g).1 (stream 0x31 x g).2).2).errOvf = g.errOvf

/-- R161 and R166 law 4: from no escape pending and no error recorded, a sequence passes the unstuffer and
UNSTUFF_END without an error exactly when it is the stuffing of some sequence. -/
def Obligations.UnstuffAcceptsExactlyStuffedSequences : Prop :=
  ∀ (y : List Byte) (g : Regs), g.escPending = false → g.err = 0 →
    ((memWrite 0x00 0x33 (feed 0x32 y g)).err = 0 ↔ ∃ x, y = stuff x)

/-- R166 laws 2, 3 and 4: the length of a stuffed sequence, that it holds no marker, and that stuffing is
injective. -/
def Obligations.StuffedSequenceLaws : Prop :=
  (∀ x, (stuff x).length = x.length + x.countP fun b => b == 0x7E || b == 0x7D) ∧
  (∀ x, 0x7E ∉ stuff x) ∧ ∀ x y, stuff x = stuff y → x = y

/-! ### The AES wrapper -/

/-- R184: AES_KEY_COMMIT. -/
def Obligations.AesKeyCommitValidatesTheKey : Prop :=
  decode (.cmd8 0x40) = .ok .aesKeyCommit ∧
  ∀ s, ∃ t, exec .aesKeyCommit s = .next t ∧ t.regs.keyValid = true ∧ keepsErrors s t ∧
    t.regs.escPending = s.regs.escPending ∧ t.regs.chkOk = s.regs.chkOk ∧ onlyChanges [0x01] s t

/-- R185 and R182: AES_ENCRYPT writes the primitive's output, byte i (the i-th from the top) to DOUT[i], and
nothing else; without a committed key it raises NO_KEY. The primitive is the model's FIPS-197 text
(notes/assumptions/7.md). -/
def Obligations.AesEncryptWritesTheCipherBlock : Prop :=
  decode (.cmd8 0x41) = .ok .aesEncrypt ∧
  ∀ s, ∃ t, exec .aesEncrypt s = .next t ∧
    (s.regs.keyValid = true →
      (∀ i : Fin 16, memRead (BitVec.ofNat 7 (0x40 + i.val)) t.regs =
        (aes128Enc (packBlock s.regs.key) (packBlock s.regs.din)).extractLsb' (120 - 8 * i.val) 8) ∧
      onlyChanges ((List.range 16).map fun i => BitVec.ofNat 7 (0x40 + i)) s t) ∧
    (s.regs.keyValid = false → raisesOnly .noKey s t)

/-- R186 and R182: AES_DECRYPT, likewise (notes/assumptions/7.md). -/
def Obligations.AesDecryptWritesThePlainBlock : Prop :=
  decode (.cmd8 0x42) = .ok .aesDecrypt ∧
  ∀ s, ∃ t, exec .aesDecrypt s = .next t ∧
    (s.regs.keyValid = true →
      (∀ i : Fin 16, memRead (BitVec.ofNat 7 (0x40 + i.val)) t.regs =
        (aes128Dec (packBlock s.regs.key) (packBlock s.regs.din)).extractLsb' (120 - 8 * i.val) 8) ∧
      onlyChanges ((List.range 16).map fun i => BitVec.ofNat 7 (0x40 + i)) s t) ∧
    (s.regs.keyValid = false → raisesOnly .noKey s t)

/-- R187: AES_KEY_CLEAR zeroes the key and DOUT and clears KEY_VALID. -/
def Obligations.AesKeyClearZeroesKeyAndOutput : Prop :=
  decode (.cmd8 0x43) = .ok .aesKeyClear ∧
  ∀ s, ∃ t, exec .aesKeyClear s = .next t ∧ (∀ i : Fin 16, t.regs.key[i] = 0x00) ∧
    (∀ i : Fin 16, memRead (BitVec.ofNat 7 (0x40 + i.val)) t.regs = 0x00) ∧ t.regs.keyValid = false ∧
    keepsErrors s t ∧ t.regs.escPending = s.regs.escPending ∧ t.regs.chkOk = s.regs.chkOk ∧ t.host = s.host ∧
    (∀ a : Addr, a ≠ 0x01 → a.toNat < 0x40 ∨ 0x4F < a.toNat → memRead a t.regs = memRead a s.regs)

/-- R181, of the model's FIPS-197 text (notes/assumptions/7.md): decrypting what was encrypted under the same
key gives the block back. -/
def Obligations.AesDecryptInvertsEncrypt : Prop :=
  ∀ k p : Word128, aes128Dec k (aes128Enc k p) = p

/-- R181 and R182 over the wrapper: with a key committed, encrypting, copying DOUT to DIN and decrypting leaves
DOUT equal to the block that was encrypted, and records no error. The primitive is the model's FIPS-197 text
(notes/assumptions/7.md). -/
def Obligations.AesRoundTripThroughTheWrapper : Prop :=
  ∀ g : Regs, g.keyValid = true →
    ∃ h, h = memWrite 0x00 0x42 (writeBlock 0x30 (memWrite 0x00 0x41 g).dout (memWrite 0x00 0x41 g)) ∧
      h.dout = g.din ∧ h.key = g.key ∧ h.keyValid = true ∧ h.err = g.err ∧ h.errOvf = g.errOvf

/-- R8 and R182: the 128-bit value of a byte array has byte 0 in its most significant byte, and packing and
unpacking undo each other. -/
def Obligations.BlockPackingKeepsByteOrder : Prop :=
  (∀ (b : Block) (i : Fin 16), (packBlock b).extractLsb' (120 - 8 * i.val) 8 = b[i]) ∧
  (∀ b, unpackBlock (packBlock b) = b) ∧ ∀ w, packBlock (unpackBlock w) = w

/-! ### The bit-field unit -/

/-- R203 with R201: BF_EXTRACT returns the bits of a legal field from bit 0 up and zeros above; an illegal field
raises FIELD. -/
def Obligations.BfExtractReturnsTheField : Prop :=
  decode (.cmd8 0x50) = .ok .bfExtract ∧
  ∀ s, ∃ t, exec .bfExtract s = .next t ∧
    (1 ≤ s.regs.bfW.toNat ∧ 1 ≤ s.regs.bfS.toNat ∧ s.regs.bfS.toNat - 1 + s.regs.bfW.toNat ≤ 8 →
      onlyChanges [0x14] s t ∧ ∀ j : Nat, (memRead 0x14 t.regs).getLsbD j =
        (decide (j < s.regs.bfW.toNat) && s.regs.bfA.getLsbD (s.regs.bfS.toNat - 1 + j))) ∧
    (¬(1 ≤ s.regs.bfW.toNat ∧ 1 ≤ s.regs.bfS.toNat ∧ s.regs.bfS.toNat - 1 + s.regs.bfW.toNat ≤ 8) →
      raisesOnly .field s t)

/-- R204 with R201 and R202: BF_FILL puts the value into the field and keeps the bits of BF_A outside it; an
illegal field, or a value that does not fit, raises FIELD. -/
def Obligations.BfFillReplacesTheField : Prop :=
  decode (.cmd8 0x51) = .ok .bfFill ∧
  ∀ s, ∃ t, exec .bfFill s = .next t ∧
    ((1 ≤ s.regs.bfW.toNat ∧ 1 ≤ s.regs.bfS.toNat ∧ s.regs.bfS.toNat - 1 + s.regs.bfW.toNat ≤ 8) ∧
        s.regs.bfB.toNat < 2 ^ s.regs.bfW.toNat →
      onlyChanges [0x14] s t ∧ ∀ j : Nat, (memRead 0x14 t.regs).getLsbD j =
        if s.regs.bfS.toNat - 1 ≤ j ∧ j < s.regs.bfS.toNat - 1 + s.regs.bfW.toNat
        then s.regs.bfB.getLsbD (j - (s.regs.bfS.toNat - 1)) else s.regs.bfA.getLsbD j) ∧
    (¬((1 ≤ s.regs.bfW.toNat ∧ 1 ≤ s.regs.bfS.toNat ∧ s.regs.bfS.toNat - 1 + s.regs.bfW.toNat ≤ 8) ∧
        s.regs.bfB.toNat < 2 ^ s.regs.bfW.toNat) → raisesOnly .field s t)

/-- R205: bit j of BF_PACK_FLAGS's result is set exactly when some set flag's mask has it. -/
def Obligations.BfPackFlagsOrsTheMasks : Prop :=
  decode (.cmd8 0x52) = .ok .bfPackFlags ∧
  ∀ s, ∃ t, exec .bfPackFlags s = .next t ∧ onlyChanges [0x14] s t ∧
    ∀ j : Nat, (memRead 0x14 t.regs).getLsbD j = true ↔
      ∃ i : Fin 8, s.regs.bfB.getLsbD i.val = true ∧ s.regs.mask[i].getLsbD j = true

/-- R206: bit i of BF_UNPACK_FLAGS's result is set exactly when some bit of MASK[i] is set in BF_A. -/
def Obligations.BfUnpackFlagsTestsTheMasks : Prop :=
  decode (.cmd8 0x53) = .ok .bfUnpackFlags ∧
  ∀ s, ∃ t, exec .bfUnpackFlags s = .next t ∧ onlyChanges [0x14] s t ∧
    ∀ i : Fin 8, (memRead 0x14 t.regs).getLsbD i.val = true ↔ s.regs.bfA &&& s.regs.mask[i] ≠ 0x00

/-- R207 laws 1 to 3: extracting a field just filled gives the value; filling a field with the value extracted
from the same byte gives the byte; and two fills of disjoint fields, with values that fit, commute. -/
def Obligations.FieldFillLaws : Prop :=
  (∀ (a v : Byte) (w s : Nat), 1 ≤ w → s + w ≤ 8 →
    (v.toNat < 2 ^ w → extractField (fillField a w s v) w s = v) ∧
    fillField a w s (extractField a w s) = a) ∧
  ∀ (a v v' : Byte) (w s w' s' : Nat), 1 ≤ w → s + w ≤ 8 → 1 ≤ w' → s' + w' ≤ 8 →
    s + w ≤ s' ∨ s' + w' ≤ s → v.toNat < 2 ^ w → v'.toNat < 2 ^ w' →
    fillField (fillField a w s v) w' s' v' = fillField (fillField a w' s' v') w s v

/-- R207 law 4: with a fixed mask table, packing the unpacked flags of b gives b exactly when no bit of b lies
outside every mask and each mask meets b in nothing or in the whole mask; so it does for all 256 bytes exactly
when every nonzero mask has one bit and the masks together cover the byte. -/
def Obligations.PackAfterUnpackIsTheIdentityExactlyWhen : Prop :=
  (∀ (b : Byte) (m : Vector Byte 8), packFlags (unpackFlags b m) m = b ↔
    (∀ j : Nat, b.getLsbD j = true → ∃ i : Fin 8, m[i].getLsbD j = true) ∧
    ∀ i : Fin 8, b &&& m[i] = 0x00 ∨ b &&& m[i] = m[i]) ∧
  (∀ m : Vector Byte 8, (∀ b, packFlags (unpackFlags b m) m = b) ↔
    (∀ i : Fin 8, m[i] = 0x00 ∨ ∃ j : Fin 8, m[i] = 0x01 <<< j.val) ∧
    ∀ j : Fin 8, ∃ i : Fin 8, m[i].getLsbD j.val = true)

/-! ### Errors -/

/-- R223: `record_error` keeps the first code, marks a later error in ERR_OVF, and changes nothing else; the codes
are those R221 gives. -/
def Obligations.RecordErrorKeepsTheFirstCode : Prop :=
  (∀ (e : ErrorName) (g : Regs), g.recordError e =
    { g with err := if g.err = 0 then e.code else g.err, errOvf := if g.err = 0 then g.errOvf else true }) ∧
  ErrorName.illegalCmd.code = 1 ∧ ErrorName.checksum.code = 2 ∧ ErrorName.format.code = 3 ∧
  ErrorName.noKey.code = 4 ∧ ErrorName.field.code = 5 ∧ ErrorName.illegalAccess.code = 6

/-- R229: while an error is recorded, every access but CLR_ERR and SOFT_RESET keeps its code, and ERR_OVF once
set stays set. -/
def Obligations.FirstErrorStaysUntilAcknowledged : Prop :=
  ∀ i s t, exec i s = .next t → s.regs.err ≠ 0 → ¬runsCommand i .clrErr → ¬runsCommand i .softReset →
    t.regs.err = s.regs.err ∧ (s.regs.errOvf = true → t.regs.errOvf = true)

/-- R222: the accesses that raise nothing. SOFT_RESET and CLR_ERR clear the record; the others keep it. -/
def Obligations.QuietAccessesRaiseNothing : Prop :=
  ∀ i s, ∃ t, exec i s = .next t ∧
    ((∃ a, i = .rd a) ∨ (∃ a v, i = .wr a v ∧ (isRwAddr a ∨ 0x20 ≤ a.toNat ∧ a.toNat ≤ 0x2F)) ∨
      runsCommand i .nop ∨ runsCommand i .crcInit ∨ runsCommand i .crcUpdate ∨ runsCommand i .lrcInit ∨
      runsCommand i .lrcUpdate ∨ runsCommand i .stuffClear ∨ runsCommand i .stuffByte ∨
      runsCommand i .aesKeyCommit ∨ runsCommand i .aesKeyClear ∨ runsCommand i .bfPackFlags ∨
      runsCommand i .bfUnpackFlags → keepsErrors s t) ∧
    (runsCommand i .softReset ∨ runsCommand i .clrErr → t.regs.err = 0 ∧ t.regs.errOvf = false)

/-- R221: an access that turns ERR from 0 to a code is one the table names for that code; code 7 is never
produced. -/
def Obligations.ErrorCodesNameTheirCause : Prop :=
  ∀ i s t, exec i s = .next t → s.regs.err = 0 → t.regs.err ≠ 0 →
    (t.regs.err = 1 ∧ ∃ c, i = .wr 0x00 c ∧ decodeCommand c = none) ∨
    (t.regs.err = 2 ∧ (runsCommand i .crcCheck ∨ runsCommand i .lrcCheck) ∧ t.regs.chkOk = false) ∨
    (t.regs.err = 3 ∧ (runsCommand i .unstuffByte ∨ runsCommand i .unstuffEnd)) ∨
    (t.regs.err = 4 ∧ (runsCommand i .aesEncrypt ∨ runsCommand i .aesDecrypt) ∧ s.regs.keyValid = false) ∨
    (t.regs.err = 5 ∧ (runsCommand i .bfExtract ∨ runsCommand i .bfFill)) ∨
    (t.regs.err = 6 ∧ ∃ a v, i = .wr a v ∧ (isRoAddr a ∨ isReservedAddr a))

/-- R103 and R229: an access runs the same way whatever errors are recorded. Two states that differ only in the
error record go, by any access but a read of STATUS, to states that differ only there. -/
def Obligations.RecordedErrorsBlockNothing : Prop :=
  ∀ i s e o, i ≠ .rd 0x01 → ∃ t u, exec i s = .next t ∧ exec i (s.withErrors e o) = .next u ∧
    u.withErrors 0 false = t.withErrors 0 false

/-! ### Rules of the whole block -/

/-- R25: which accesses change each field of STATUS that is no error record. -/
def Obligations.UnitFlagsHaveTheirWriters : Prop :=
  ∀ i s t, exec i s = .next t →
    (t.regs.keyValid ≠ s.regs.keyValid → runsCommand i .aesKeyCommit ∨ runsCommand i .aesKeyClear ∨
      runsCommand i .softReset ∨ ∃ a v, i = .wr a v ∧ 0x20 ≤ a.toNat ∧ a.toNat ≤ 0x2F) ∧
    (t.regs.keyValid = true ∧ s.regs.keyValid = false → runsCommand i .aesKeyCommit) ∧
    (t.regs.escPending ≠ s.regs.escPending →
      runsCommand i .unstuffByte ∨ runsCommand i .stuffClear ∨ runsCommand i .softReset) ∧
    (t.regs.chkOk ≠ s.regs.chkOk →
      runsCommand i .crcCheck ∨ runsCommand i .lrcCheck ∨ runsCommand i .softReset)

/-- R26, R29, R33, R34, R36, R38: no command but SOFT_RESET writes an operand register. -/
def Obligations.CommandsNeverWriteOperandRegisters : Prop :=
  ∀ i s t, exec i s = .next t → (∀ a v, i = .wr a v → a = 0x00) → ¬runsCommand i .softReset →
    t.regs.opnd = s.regs.opnd ∧ t.regs.crcExp0 = s.regs.crcExp0 ∧ t.regs.crcExp1 = s.regs.crcExp1 ∧
    t.regs.bfA = s.regs.bfA ∧ t.regs.bfB = s.regs.bfB ∧ t.regs.bfW = s.regs.bfW ∧ t.regs.bfS = s.regs.bfS ∧
    t.regs.mask = s.regs.mask ∧ t.regs.din = s.regs.din

/-- R27, R30, R31, R35, R37, R39: which accesses write each unit's state and results. -/
def Obligations.UnitRegistersHaveTheirWriters : Prop :=
  ∀ i s t, exec i s = .next t → ¬runsCommand i .softReset →
    (t.regs.crcS ≠ s.regs.crcS → runsCommand i .crcInit ∨ runsCommand i .crcUpdate ∨
      ∃ a v, i = .wr a v ∧ (a = 0x04 ∨ a = 0x05)) ∧
    (t.regs.lrcS ≠ s.regs.lrcS → runsCommand i .lrcInit ∨ runsCommand i .lrcUpdate ∨ ∃ v, i = .wr 0x0A v) ∧
    (t.regs.sout0 ≠ s.regs.sout0 ∨ t.regs.sout1 ≠ s.regs.sout1 ∨ t.regs.soutCnt ≠ s.regs.soutCnt →
      runsCommand i .stuffClear ∨ runsCommand i .stuffByte ∨ runsCommand i .unstuffByte) ∧
    (t.regs.bfRes ≠ s.regs.bfRes → runsCommand i .bfExtract ∨ runsCommand i .bfFill ∨
      runsCommand i .bfPackFlags ∨ runsCommand i .bfUnpackFlags) ∧
    (t.regs.key ≠ s.regs.key → runsCommand i .aesKeyClear ∨
      ∃ a v, i = .wr a v ∧ 0x20 ≤ a.toNat ∧ a.toNat ≤ 0x2F) ∧
    (t.regs.dout ≠ s.regs.dout →
      runsCommand i .aesEncrypt ∨ runsCommand i .aesDecrypt ∨ runsCommand i .aesKeyClear)

/-- R37, R70, R231: the key cannot be read back. Two states that differ only in the key go, by any access that
runs neither AES_ENCRYPT nor AES_DECRYPT, to states that differ at most in the key, so the host has received the same bytes. -/
def Obligations.KeyIsReadOnlyThroughTheCipher : Prop :=
  ∀ i s k, ¬runsCommand i .aesEncrypt → ¬runsCommand i .aesDecrypt →
    ∃ t u, exec i s = .next t ∧ exec i (s.withKey k) = .next u ∧ u.host = t.host ∧
      (∀ a, memRead a u.regs = memRead a t.regs) ∧ ∀ k', u.withKey k' = t.withKey k'

/-- The register invariant (R25, R31, R221) is kept by every step, from every state that has it. -/
def Obligations.StepKeepsTheRegisterInvariant : Prop :=
  ∀ s t, s.regs.Inv → step s = .next t → t.regs.Inv

/-- The register invariant holds at reset. -/
def Obligations.ResetHasTheRegisterInvariant : Prop := State.reset.regs.Inv

/-! ### Steps, decoding and scripts -/

/-- R60: one step takes the next word the host presents and runs the instruction it decodes to. The queue and
the position are the model's own (notes/assumptions/1.md). -/
def Obligations.StepRunsTheDecodedInstruction : Prop :=
  ∀ (s : State) (w : HostWord) (es : List Event) (i : Instr),
    s.host.pending = .access w :: es → decode w = .ok i →
    step s = exec i { s with host := { s.host with pending := es, position := s.host.position + 1 } }

/-- R84, R88, R220, R235: a step always answers a next state, except that it refuses a word with W = 0 and
DATA ≠ 0x00 by its position; with nothing pending, nothing changes. The queue and the position are the model's
own, and so is what happens with nothing pending (notes/assumptions/1.md, 3.md and 5.md). -/
def Obligations.StepStopsOnlyOnAWordThatIsNoAccess : Prop :=
  ∀ s : State,
    (s.host.pending = [] → step s = .next s) ∧
    (∀ w es, s.host.pending = .access (.bus16 w) :: es → HostWord.isProgramWord (.bus16 w) = false →
      step s = .refused (.notAProgramWord s.host.position w)) ∧
    (∀ e es, s.host.pending = e :: es → (∀ w, e = .access w → w.isProgramWord = true) →
      ∃ t, step s = .next t ∧ t.host.pending = es)

/-- R80, R88, R103: a command byte and its write word 0x80cc are one access, for reserved bytes too. A pending
command byte is the model's form of that access (notes/assumptions/2.md). -/
def Obligations.CommandByteAndItsWriteWordAgree : Prop :=
  ∀ (c : Byte) (s s' : State) (es : List Event), s.host.pending = .access (.cmd8 c) :: es →
    s' = { s with host := { s.host with pending := .access (.bus16 (0x80#8 ++ c)) :: es } } →
    ∃ t, step s = .next t ∧ step s' = .next t

/-- Decoding an encoded instruction gives it back, for every instruction with every operand. -/
def Obligations.DecodeOfEncodeIsTheInstruction : Prop :=
  ∀ i, decode (encode i) = .ok i

/-- R83, R87, R88: each word has one meaning. A word that decodes is the encoding of its instruction, and a
transaction word decodes exactly when it is a program word. -/
def Obligations.EncodeOfDecodeIsTheWord : Prop :=
  (∀ w i, decode w = .ok i → encode i = w) ∧
  ∀ w : Word16, (∃ i, decode (.bus16 w) = .ok i) ↔ HostWord.isProgramWord (.bus16 w) = true

/-- Words written out from R83 and R87, one or more for every unit. -/
def Obligations.SampleWordsDecodeAsTheSpecSays : Prop :=
  decode (.cmd8 0x02) = .ok .clrErr ∧ decode (.cmd8 0x12) = .ok .crcCheck ∧
  decode (.cmd8 0x21) = .ok .lrcUpdate ∧ decode (.cmd8 0x33) = .ok .unstuffEnd ∧
  decode (.cmd8 0x43) = .ok .aesKeyClear ∧ decode (.cmd8 0x52) = .ok .bfPackFlags ∧
  decode (.cmd8 0x13) = .error (.reservedCommand 0x13) ∧ decode (.bus16 0x0700) = .ok (.rd 0x07) ∧
  decode (.bus16 0x89D4) = .ok (.wr 0x09 0xD4) ∧ decode (.bus16 0x0001) = .error (.notAProgramWord 0x0001)

/-- R88 to R90: a script that assembles yields program words only, so the host never presents a word that is no
access. How the text is read is the model's choice where R89 is silent (notes/assumptions/12.md). -/
def Obligations.AssembledScriptsAreNeverRefused : Prop :=
  ∀ (lines : List (List Char)) (p : List HostWord), programOf? lines = some p → firstRefused p = none
end

