-- ==== Sys2Proof/Laws/Aes.lean ====
section
/-! SUPPORT. Facts of the AES-128 tables and of its field arithmetic. -/

namespace Sys2Proof.Machine

/-- The inverse S-box undoes the S-box. -/
theorem invSbox_sbox : ∀ b : Byte, invSbox (sbox b) = b := by decide +kernel

/-- The S-box undoes the inverse S-box. -/
theorem sbox_invSbox : ∀ b : Byte, sbox (invSbox b) = b := by decide +kernel

/-- Multiplication by x distributes over addition in GF(2^8). -/
theorem xtime_xor (a b : Byte) : xtime (a ^^^ b) = xtime a ^^^ xtime b := by
  have shift : (a ^^^ b) <<< 1 = (a <<< 1) ^^^ (b <<< 1) := BitVec.shiftLeft_xor_distrib a b 1
  unfold xtime
  rw [BitVec.msb_xor, shift]
  cases a.msb <;> cases b.msb
  · rfl
  · exact BitVec.xor_assoc ..
  · simp only [Bool.bne_false, if_true, if_false, Bool.false_eq_true]
    ac_rfl
  · simp only [bne_self_eq_false, if_true, if_false, Bool.false_eq_true]
    have cancel : (0x1B : Byte) ^^^ 0x1B = 0 := by decide
    calc a <<< 1 ^^^ b <<< 1 = a <<< 1 ^^^ b <<< 1 ^^^ ((0x1B : Byte) ^^^ 0x1B) := by rw [cancel]; simp
      _ = _ := by ac_rfl

/-- The xor of a byte with itself cancels inside a longer xor. -/
theorem xor_cancel_left (a b : Byte) : a ^^^ (a ^^^ b) = b := by
  rw [← BitVec.xor_assoc, BitVec.xor_self, BitVec.zero_xor]

/-- One byte of InvMixColumns after MixColumns: the field products of a column cancel but for its first byte. -/
theorem invMix_mix_byte (a b c d : Byte) :
    timesE (xtime a ^^^ times3 b ^^^ c ^^^ d) ^^^ timesB (xtime b ^^^ times3 c ^^^ d ^^^ a) ^^^
      timesD (xtime c ^^^ times3 d ^^^ a ^^^ b) ^^^ times9 (xtime d ^^^ times3 a ^^^ b ^^^ c) = a := by
  have left_comm (x y z : Byte) : x ^^^ (y ^^^ z) = y ^^^ (x ^^^ z) := by ac_rfl
  simp only [timesE, timesB, timesD, times9, times3, xtime_xor, BitVec.xor_assoc]
  simp only [left_comm, BitVec.xor_comm, xor_cancel_left, BitVec.xor_self, BitVec.xor_zero, BitVec.zero_xor]

/-- InvMixColumns undoes MixColumns. -/
theorem invMixColumns_mixColumns (s : Block) : invMixColumns (mixColumns s) = s := by
  refine Vector.ext fun i hi => ?_
  have h : i = 0 ∨ i = 1 ∨ i = 2 ∨ i = 3 ∨ i = 4 ∨ i = 5 ∨ i = 6 ∨ i = 7 ∨ i = 8 ∨ i = 9 ∨ i = 10 ∨ i = 11 ∨
      i = 12 ∨ i = 13 ∨ i = 14 ∨ i = 15 := by omega
  rcases h with rfl | rfl | rfl | rfl | rfl | rfl | rfl | rfl | rfl | rfl | rfl | rfl | rfl | rfl | rfl | rfl <;>
    simp only [invMixColumns, mixColumns, columnByte, Vector.getElem_ofFn] <;> exact invMix_mix_byte ..

/-- InvShiftRows undoes ShiftRows. -/
theorem invShiftRows_shiftRows (s : Block) : invShiftRows (shiftRows s) = s := by
  refine Vector.ext fun i hi => ?_
  have h : ((i + 12 * (i % 4)) % 16 + 4 * ((i + 12 * (i % 4)) % 16 % 4)) % 16 = i := by omega
  simp only [invShiftRows, shiftRows, Vector.getElem_ofFn, h]

/-- InvSubBytes undoes SubBytes. -/
theorem invSubBytes_subBytes (s : Block) : invSubBytes (subBytes s) = s := by
  refine Vector.ext fun i hi => ?_
  simp only [invSubBytes, subBytes, Vector.getElem_map, invSbox_sbox]

/-- AddRoundKey undoes itself. -/
theorem addRoundKey_twice (s k : Block) : addRoundKey (addRoundKey s k) k = s := by
  refine Vector.ext fun i hi => ?_
  simp only [addRoundKey, Vector.getElem_ofFn, Fin.getElem_fin, BitVec.xor_assoc, BitVec.xor_self, BitVec.xor_zero]

end Sys2Proof.Machine
end

