-- ==== Sys2Proof/Laws/Decode.lean ====
section
/-! SUPPORT. The fields of a transaction word built from its fields (R87). -/

namespace Sys2Proof

/-- W of a built word. -/
@[simp] theorem busIsWrite_busWord (b : Bool) (a : Addr) (d : Byte) : busIsWrite (busWord b a d) = b := by
  have outer := BitVec.getLsbD_append (x := BitVec.ofBool b ++ a) (y := d) (i := 15)
  have inner := BitVec.getLsbD_append (x := BitVec.ofBool b) (y := a) (i := 7)
  exact outer.trans (inner.trans (by simp))

/-- DATA of a built word. -/
@[simp] theorem busData_busWord (b : Bool) (a : Addr) (d : Byte) : busData (busWord b a d) = d :=
  BitVec.extractLsb'_append_eq_right ..

/-- ADDR of a built word. -/
@[simp] theorem busAddr_busWord (b : Bool) (a : Addr) (d : Byte) : busAddr (busWord b a d) = a := by
  apply BitVec.eq_of_getLsbD_eq
  intro i hi
  have outer := BitVec.getLsbD_append (x := BitVec.ofBool b ++ a) (y := d) (i := 8 + i)
  have inner := BitVec.getLsbD_append (x := BitVec.ofBool b) (y := a) (i := i)
  rw [busAddr, BitVec.getLsbD_extractLsb']
  simp only [hi, decide_true, Bool.true_and]
  refine outer.trans ?_
  simpa [hi] using inner

end Sys2Proof
end

