-- ==== Sys2Proof/Laws/State.lean ====
section
/-! SUPPORT. One lemma per field per update of the state, so that no proof unfolds a record update. -/

namespace Sys2Proof.Machine

@[simp] theorem State.onRegs_regs (f : Regs → Regs) (s : State) : (s.onRegs f).regs = f s.regs := rfl
@[simp] theorem State.onRegs_host (f : Regs → Regs) (s : State) : (s.onRegs f).host = s.host := rfl
@[simp] theorem State.resetRegs_regs (s : State) : s.resetRegs.regs = Regs.reset := rfl
@[simp] theorem State.resetRegs_host (s : State) : s.resetRegs.host = s.host := rfl

@[simp] theorem State.takeAccess_regs (s : State) : s.takeAccess.regs = s.regs := rfl
@[simp] theorem State.takeAccess_pending (s : State) :
    s.takeAccess.host.pending = s.host.pending.tail := rfl
@[simp] theorem State.takeAccess_position (s : State) :
    s.takeAccess.host.position = s.host.position + 1 := rfl
@[simp] theorem State.takeAccess_reads (s : State) : s.takeAccess.host.reads = s.host.reads := rfl

@[simp] theorem State.takeReset_regs (s : State) : s.takeReset.regs = Regs.reset := rfl
@[simp] theorem State.takeReset_pending (s : State) :
    s.takeReset.host.pending = s.host.pending.tail := rfl
@[simp] theorem State.takeReset_position (s : State) : s.takeReset.host.position = s.host.position := rfl
@[simp] theorem State.takeReset_reads (s : State) : s.takeReset.host.reads = s.host.reads := rfl

@[simp] theorem State.hostReceives_regs (b : Byte) (s : State) : (s.hostReceives b).regs = s.regs := rfl
@[simp] theorem State.hostReceives_pending (b : Byte) (s : State) :
    (s.hostReceives b).host.pending = s.host.pending := rfl
@[simp] theorem State.hostReceives_position (b : Byte) (s : State) :
    (s.hostReceives b).host.position = s.host.position := rfl
@[simp] theorem State.hostReceives_reads (b : Byte) (s : State) :
    (s.hostReceives b).host.reads = b :: s.host.reads := rfl

@[simp] theorem State.withFetchWord_regs (s : State) (nbits w : Nat) :
    (s.withFetchWord nbits w).regs = s.regs := rfl
@[simp] theorem State.withFetchWord_pending (s : State) (nbits w : Nat) :
    (s.withFetchWord nbits w).host.pending = .access (hostWordOf nbits w) :: s.host.pending := rfl

@[simp] theorem State.withKey_key (k : Block) (s : State) : (s.withKey k).regs.key = k := rfl
@[simp] theorem State.withKey_host (k : Block) (s : State) : (s.withKey k).host = s.host := rfl
@[simp] theorem State.withErrors_err (e : BitVec 3) (o : Bool) (s : State) : (s.withErrors e o).regs.err = e := rfl
@[simp] theorem State.withErrors_errOvf (e : BitVec 3) (o : Bool) (s : State) :
    (s.withErrors e o).regs.errOvf = o := rfl
@[simp] theorem State.withErrors_host (e : BitVec 3) (o : Bool) (s : State) :
    (s.withErrors e o).host = s.host := rfl

@[simp] theorem Regs.acknowledge_err (g : Regs) : g.acknowledge.err = 0 := rfl
@[simp] theorem Regs.acknowledge_errOvf (g : Regs) : g.acknowledge.errOvf = false := rfl
@[simp] theorem Regs.acknowledge_keyValid (g : Regs) : g.acknowledge.keyValid = g.keyValid := rfl
@[simp] theorem Regs.acknowledge_escPending (g : Regs) : g.acknowledge.escPending = g.escPending := rfl
@[simp] theorem Regs.acknowledge_chkOk (g : Regs) : g.acknowledge.chkOk = g.chkOk := rfl
@[simp] theorem Regs.acknowledge_key (g : Regs) : g.acknowledge.key = g.key := rfl

@[simp] theorem storeKey_key (i : Fin 16) (v : Byte) (g : Regs) : (storeKey i v g).key = g.key.set i v := rfl
@[simp] theorem storeKey_keyValid (i : Fin 16) (v : Byte) (g : Regs) : (storeKey i v g).keyValid = false := rfl

@[simp] theorem setSout_nil (g : Regs) :
    setSout g [] = { g with sout0 := 0x00, sout1 := 0x00, soutCnt := 0 } := rfl
@[simp] theorem setSout_one (g : Regs) (a : Byte) :
    setSout g [a] = { g with sout0 := a, sout1 := 0x00, soutCnt := 1 } := rfl
@[simp] theorem setSout_two (g : Regs) (a b : Byte) :
    setSout g [a, b] = { g with sout0 := a, sout1 := b, soutCnt := 2 } := rfl

end Sys2Proof.Machine
end

