-- ==== Sys2Proof/Laws/Ops.lean ====
section
/-! SUPPORT. One lemma for each shared operation that says once what it can do. -/

namespace Sys2Proof.Machine

/-- `raise` records the first error, or marks that another followed; nothing else of the registers changes. -/
theorem raise_cases (e : ErrorName) (g : Regs) :
    (g.err = 0 ∧ raise e g = { g with err := e.code }) ∨ (g.err ≠ 0 ∧ raise e g = { g with errOvf := true }) := by
  by_cases h : g.err = 0
  · exact .inl ⟨h, if_pos h⟩
  · exact .inr ⟨h, if_neg h⟩

/-- No error has the code of NONE or the reserved code. -/
theorem ErrorName.code_ne (e : ErrorName) : e.code ≠ 0 ∧ e.code ≠ 7 := by
  cases e <;> decide

/-- `raise` writes nothing but ERR and ERR_OVF. -/
theorem raise_frame (e : ErrorName) (g : Regs) :
    raise e g = { g with err := (raise e g).err, errOvf := (raise e g).errOvf } := by
  obtain ⟨_, h⟩ | ⟨_, h⟩ := raise_cases e g <;> rw [h]

/-- A check writes CHK_OK; only on a mismatch does it also record CHECKSUM. -/
theorem recordCheck_cases (ok : Bool) (g : Regs) :
    (ok = true ∧ recordCheck ok g = { g with chkOk := true }) ∨
    (ok = false ∧ recordCheck ok g = raise .checksum { g with chkOk := false }) := by
  cases ok
  · exact .inr ⟨rfl, rfl⟩
  · exact .inl ⟨rfl, rfl⟩

/-- A reading access returns the byte and changes no register. -/
theorem exec_rd (a : Addr) (s : State) : exec (.rd a) s = .next (s.hostReceives (memRead a s.regs)) := rfl

/-- A writing access changes the registers as `memWrite` says. -/
theorem exec_wr (a : Addr) (v : Byte) (s : State) : exec (.wr a v) s = .next (s.onRegs (memWrite a v)) := rfl

/-- A command changes the registers as `commandEffect` says. -/
theorem exec_command (i : Instr) (s : State) (hr : ∀ a, i ≠ .rd a) (hw : ∀ a v, i ≠ .wr a v) :
    exec i s = .next (s.onRegs (commandEffect i)) := by
  cases i with
  | rd a => exact absurd rfl (hr a)
  | wr a v => exact absurd rfl (hw a v)
  | _ => rfl

/-- Every access answers a next state. -/
theorem exec_next (i : Instr) (s : State) : ∃ t, exec i s = .next t := by
  cases i <;> exact ⟨_, rfl⟩

/-- No byte decodes to a host access. -/
theorem decodeCommand_isCommand {c : Byte} {i : Instr} (h : decodeCommand c = some i) :
    (∀ a, i ≠ .rd a) ∧ ∀ a v, i ≠ .wr a v := by
  have key : ∀ row ∈ opcodeMap, (∀ a, row.2 ≠ .rd a) ∧ ∀ a v, row.2 ≠ .wr a v := by
    simp [opcodeMap]
  simp only [decodeCommand, Option.map_eq_some_iff] at h
  obtain ⟨row, hrow, rfl⟩ := h
  exact key row (List.mem_of_find?_eq_some hrow)

/-- The command port runs the command its byte decodes to, and a reserved byte raises ILLEGAL_CMD. -/
theorem runCommand_cases (c : Byte) (g : Regs) :
    (∃ i, decodeCommand c = some i ∧ runCommand c g = commandEffect i g) ∨
    (decodeCommand c = none ∧ runCommand c g = raise .illegalCmd g) := by
  unfold runCommand
  cases h : decodeCommand c with
  | none => exact .inr ⟨rfl, rfl⟩
  | some i => exact .inl ⟨i, rfl, rfl⟩

/-- What a write can do, by the register at its address. -/
theorem memWrite_cases (a : Addr) (v : Byte) (g : Regs) :
    (regAt a = .cmd ∧ memWrite a v g = runCommand v g) ∨
    (∃ i, regAt a = .key i ∧ memWrite a v g = storeKey i v g) ∨
    ((regAt a).access = .rw ∧ memWrite a v g = storeReg (regAt a) v g) ∨
    (((regAt a).access = .ro ∨ (regAt a).access = .none) ∧ memWrite a v g = raise .illegalAccess g) := by
  unfold memWrite
  cases regAt a <;> simp [RegName.access]

/-- What a step can do: nothing, a reset, an access, or the refusal of a word that is no access. -/
theorem step_cases (s : State) :
    (s.host.pending = [] ∧ step s = .next s) ∨
    (∃ es, s.host.pending = .platformReset :: es ∧ step s = .next s.takeReset) ∨
    (∃ w i es, s.host.pending = .access w :: es ∧ decode w = .ok i ∧ step s = exec i s.takeAccess) ∨
    (∃ w c es, s.host.pending = .access w :: es ∧ decode w = .error (.reservedCommand c) ∧
      step s = exec (.wr 0x00 c) s.takeAccess) ∨
    (∃ w v es, s.host.pending = .access w :: es ∧ decode w = .error (.notAProgramWord v) ∧
      step s = .refused (.notAProgramWord s.host.position v)) := by
  unfold step State.nextEvent
  cases hp : s.host.pending with
  | nil => exact .inl ⟨rfl, rfl⟩
  | cons e es =>
    cases e with
    | platformReset => exact .inr (.inl ⟨es, rfl, rfl⟩)
    | access w =>
      cases hd : decode w with
      | ok i => exact .inr (.inr (.inl ⟨w, i, es, rfl, hd, by simp [hd]⟩))
      | error r =>
        cases r with
        | reservedCommand c => exact .inr (.inr (.inr (.inl ⟨w, c, es, rfl, hd, by simp [hd]⟩)))
        | notAProgramWord v => exact .inr (.inr (.inr (.inr ⟨w, v, es, rfl, hd, by simp [hd]⟩)))

/-- One fold of the command's bytes at a time. -/
theorem feed_cons (c b : Byte) (d : List Byte) (g : Regs) :
    feed c (b :: d) g = feed c d (memWrite 0x00 c (memWrite 0x02 b g)) := rfl

/-- A sequence may be fed in two parts. -/
theorem feed_append (c : Byte) (d e : List Byte) (g : Regs) : feed c (d ++ e) g = feed c e (feed c d g) := by
  induction d generalizing g with
  | nil => rfl
  | cons b d ih => simp [feed, ih]

/-- The registers after a streamed sequence are those after feeding it. -/
theorem stream_regs (c : Byte) (d : List Byte) (g : Regs) : (stream c d g).2 = feed c d g := by
  induction d generalizing g with
  | nil => rfl
  | cons b d ih => simp [stream, feed, ih]

end Sys2Proof.Machine
end

