-- ==== Sys2Proof/Laws/PerInstr.lean ====
section
/-! SUPPORT. Statements made once for each instruction. -/

namespace Sys2Proof.Laws.EncodesProgramWord

/-- The word of an instruction is one a host may present (R88): a script reader refuses no encoded instruction. -/
def Statement (i : Instr) : Prop := (encode i).isProgramWord = true

theorem nop : Statement .nop := rfl
theorem softReset : Statement .softReset := rfl
theorem clrErr : Statement .clrErr := rfl
theorem crcInit : Statement .crcInit := rfl
theorem crcUpdate : Statement .crcUpdate := rfl
theorem crcCheck : Statement .crcCheck := rfl
theorem lrcInit : Statement .lrcInit := rfl
theorem lrcUpdate : Statement .lrcUpdate := rfl
theorem lrcCheck : Statement .lrcCheck := rfl
theorem stuffClear : Statement .stuffClear := rfl
theorem stuffByte : Statement .stuffByte := rfl
theorem unstuffByte : Statement .unstuffByte := rfl
theorem unstuffEnd : Statement .unstuffEnd := rfl
theorem aesKeyCommit : Statement .aesKeyCommit := rfl
theorem aesEncrypt : Statement .aesEncrypt := rfl
theorem aesDecrypt : Statement .aesDecrypt := rfl
theorem aesKeyClear : Statement .aesKeyClear := rfl
theorem bfExtract : Statement .bfExtract := rfl
theorem bfFill : Statement .bfFill := rfl
theorem bfPackFlags : Statement .bfPackFlags := rfl
theorem bfUnpackFlags : Statement .bfUnpackFlags := rfl
theorem rd (addr : Addr) : Statement (.rd addr) := by
  have h : (busWord false addr 0x00).extractLsb' 0 8 = 0x00 := busData_busWord false addr 0x00
  simp only [Statement, encode, HostWord.isProgramWord, h, beq_self_eq_true, Bool.or_true]
theorem wr (addr : Addr) (data : Byte) : Statement (.wr addr data) := by
  have h : (busWord true addr data).getLsbD 15 = true := busIsWrite_busWord true addr data
  simp only [Statement, encode, HostWord.isProgramWord, h, Bool.true_or]

end Sys2Proof.Laws.EncodesProgramWord
end

