-- ==== Sys2Proof/Tests/Slice0.lean ====
section
/-! SUPPORT. Tests. Expected values come from the words R83 and R87 define, from the rules' own examples, and from
the vectors of 95_test_vectors.md (V-CTRL, V-CRC, V-LRC, V-STUF, V-AES, V-BF); after them, for each statement with
hypotheses, a state and operands that meet them. -/

namespace Sys2Proof.Machine.Tests

/-! ### Decoding: one word for each row, its bits written out (R81, R83, R87) -/

theorem test_decode_nop : decode (.cmd8 0b00000000#8) = .ok .nop := by decide
theorem test_decode_softReset : decode (.cmd8 0b00000001#8) = .ok .softReset := by decide
theorem test_decode_clrErr : decode (.cmd8 0b00000010#8) = .ok .clrErr := by decide
theorem test_decode_crcInit : decode (.cmd8 0b00010000#8) = .ok .crcInit := by decide
theorem test_decode_crcUpdate : decode (.cmd8 0b00010001#8) = .ok .crcUpdate := by decide
theorem test_decode_crcCheck : decode (.cmd8 0b00010010#8) = .ok .crcCheck := by decide
theorem test_decode_lrcInit : decode (.cmd8 0b00100000#8) = .ok .lrcInit := by decide
theorem test_decode_lrcUpdate : decode (.cmd8 0b00100001#8) = .ok .lrcUpdate := by decide
theorem test_decode_lrcCheck : decode (.cmd8 0b00100010#8) = .ok .lrcCheck := by decide
theorem test_decode_stuffClear : decode (.cmd8 0b00110000#8) = .ok .stuffClear := by decide
theorem test_decode_stuffByte : decode (.cmd8 0b00110001#8) = .ok .stuffByte := by decide
theorem test_decode_unstuffByte : decode (.cmd8 0b00110010#8) = .ok .unstuffByte := by decide
theorem test_decode_unstuffEnd : decode (.cmd8 0b00110011#8) = .ok .unstuffEnd := by decide
theorem test_decode_aesKeyCommit : decode (.cmd8 0b01000000#8) = .ok .aesKeyCommit := by decide
theorem test_decode_aesEncrypt : decode (.cmd8 0b01000001#8) = .ok .aesEncrypt := by decide
theorem test_decode_aesDecrypt : decode (.cmd8 0b01000010#8) = .ok .aesDecrypt := by decide
theorem test_decode_aesKeyClear : decode (.cmd8 0b01000011#8) = .ok .aesKeyClear := by decide
theorem test_decode_bfExtract : decode (.cmd8 0b01010000#8) = .ok .bfExtract := by decide
theorem test_decode_bfFill : decode (.cmd8 0b01010001#8) = .ok .bfFill := by decide
theorem test_decode_bfPackFlags : decode (.cmd8 0b01010010#8) = .ok .bfPackFlags := by decide
theorem test_decode_bfUnpackFlags : decode (.cmd8 0b01010011#8) = .ok .bfUnpackFlags := by decide
/-- W = 0, ADDR = 0001110 (SOUT_CNT), DATA = 0. -/
theorem test_decode_rd : decode (.bus16 0b0000111000000000#16) = .ok (.rd 0x0E) := by decide
/-- W = 1, ADDR = 1010000, DATA = 10101010 (program P7's word d0aa). -/
theorem test_decode_wr : decode (.bus16 0b1101000010101010#16) = .ok (.wr 0x50 0xAA) := by decide
theorem test_decode_reserved : decode (.cmd8 0x60) = .error (.reservedCommand 0x60) := by decide
theorem test_table_words : decodeTableWord 8 0x53 = some .bfUnpackFlags ∧ decodeTableWord 16 0x8000 = some (.wr 0 0) ∧
    decodeTableWord 16 0x7F00 = some (.rd 0x7F) ∧ decodeTableWord 16 0x0001 = none := by decide

/-! ### WellFormed: the check refuses an ill-formed term -/

theorem test_wellFormed_refuses_read_with_data :
    HostWord.isProgramWord (.bus16 0x0001) = false ∧ HostWord.isProgramWord (.bus16 0x7F80) = false := by decide
theorem test_wellFormed_accepts : HostWord.isProgramWord (.bus16 0x7F00) = true ∧
    HostWord.isProgramWord (.bus16 0x80FF) = true := by decide
theorem test_firstRefused_position :
    firstRefused [.bus16 0x8011, .bus16 0x0600, .bus16 0x0601, .bus16 0x0602] = some (2, .bus16 0x0601) := by decide

/-! ### One step, or one command, on a small state -/

/-- The registers after an outcome. -/
def regsOf : Host.Outcome State Fault Refusal → Option Regs
  | .next t => some t.regs
  | .fault _ => none
  | .refused _ => none

/-- A state whose registers are `g`. -/
def withRegs (g : Regs) : State := { State.reset with regs := g }

/-- The registers after `exec i` on the registers `g`, read by `f`. -/
def after {α : Type} (i : Instr) (g : Regs) (f : Regs → α) : Option α := (regsOf (exec i (withRegs g))).map f

/-- STATUS = 0x2B: ESC_PENDING, ERR_OVF, ERR = 3 (R102). -/
def escError : Regs := { Regs.reset with err := 3, errOvf := true, escPending := true }

theorem test_nop : after .nop { Regs.reset with err := 2, keyValid := true } Regs.status = some 0x12 := by decide
theorem test_softReset : after .softReset { escError with lrcS := 0x08 } id = some Regs.reset := by decide
theorem test_clrErr : escError.status = 0x2B ∧ after .clrErr escError Regs.status = some 0x20 := by decide
theorem test_crcInit : after .crcInit { Regs.reset with crcS := 0x2BC3 } (fun g => (g.crcS, memRead 0x06 g, memRead 0x07 g))
    = some (0xFFFF, 0x00, 0x00) := by decide
theorem test_crcUpdate : after .crcUpdate { Regs.reset with opnd := 0x50 } Regs.crcS = some 0x5D02 ∧
    after .crcUpdate { Regs.reset with crcS := 0x0000, opnd := 0x01 } Regs.crcS = some 0x1189 := by decide
theorem test_crcRun_scenario_b :
    crcRun 0xFFFF [0x50, 0xA2, 0xA3, 0xF2, 0xF3, 0x0B, 0x10, 0x10, 0x18, 0x00, 0x00, 0x5D] = 0x2BC3 := by decide +kernel
theorem test_crcCheck_match : after .crcCheck { Regs.reset with crcS := 0x2BC3, crcExp0 := 0x3C, crcExp1 := 0xD4 }
    Regs.status = some 0x40 := by decide
theorem test_crcCheck_mismatch : after .crcCheck { Regs.reset with crcS := 0x2BC3, crcExp0 := 0xD4, crcExp1 := 0x3C }
    (fun g => (g.status, g.crcS)) = some (0x02, 0x2BC3) := by decide
theorem test_lrcInit : after .lrcInit { Regs.reset with lrcS := 0x5D } Regs.lrcS = some 0x55 := by decide
theorem test_lrcUpdate : after .lrcUpdate { Regs.reset with opnd := 0x10 } Regs.lrcS = some 0x45 := by decide
theorem test_lrc_scenario_b : lrc [0x10, 0x18, 0x00, 0x00] = 0x5D := by decide
theorem test_lrcCheck_match : after .lrcCheck { Regs.reset with lrcS := 0x5D, opnd := 0x5D } Regs.status = some 0x40 := by
  decide
theorem test_lrcCheck_mismatch : after .lrcCheck { Regs.reset with lrcS := 0x5D, chkOk := true } Regs.status =
    some 0x02 := by decide
theorem test_stuffClear : after .stuffClear { Regs.reset with escPending := true, sout0 := 0x7E, soutCnt := 1 } id =
    some Regs.reset := by decide
theorem test_stuffByte_marker : after .stuffByte { Regs.reset with opnd := 0x7E } (fun g => (g.sout0, g.sout1, g.soutCnt))
    = some (0x7D, 0x5E, 2) := by decide
theorem test_stuffByte_plain : after .stuffByte { Regs.reset with opnd := 0x5E, escPending := true }
    (fun g => (g.sout0, g.sout1, g.soutCnt, g.escPending)) = some (0x5E, 0x00, 1, true) := by decide
theorem test_unstuffByte_escaped : after .unstuffByte { Regs.reset with opnd := 0x5D, escPending := true }
    (fun g => (g.sout0, g.soutCnt, g.status)) = some (0x7D, 1, 0x00) := by decide
theorem test_unstuffByte_format : after .unstuffByte { Regs.reset with opnd := 0x7E, escPending := true, sout0 := 0x11, soutCnt := 1 }
    (fun g => (g.sout0, g.soutCnt, g.status)) = some (0x11, 1, 0x23) := by decide
theorem test_unstuffEnd : after .unstuffEnd { Regs.reset with err := 3, escPending := true } Regs.status = some 0x2B := by
  decide
theorem test_aesKeyCommit : after .aesKeyCommit Regs.reset Regs.status = some 0x10 := by decide

/-- The key of FIPS-197 C.1 (V-AES row 1). -/
def fipsKey : Block := #v[0x00, 0x01, 0x02, 0x03, 0x04, 0x05, 0x06, 0x07, 0x08, 0x09, 0x0A, 0x0B, 0x0C, 0x0D, 0x0E, 0x0F]
/-- The plain block of V-AES row 1. -/
def fipsPlain : Block := #v[0x00, 0x11, 0x22, 0x33, 0x44, 0x55, 0x66, 0x77, 0x88, 0x99, 0xAA, 0xBB, 0xCC, 0xDD, 0xEE, 0xFF]
/-- The cipher block of V-AES row 1. -/
def fipsCipher : Block := #v[0x69, 0xC4, 0xE0, 0xD8, 0x6A, 0x7B, 0x04, 0x30, 0xD8, 0xCD, 0xB7, 0x80, 0x70, 0xB4, 0xC5, 0x5A]

theorem test_aesEncrypt : after .aesEncrypt { Regs.reset with key := fipsKey, din := fipsPlain, keyValid := true }
    Regs.dout = some fipsCipher := by decide +kernel
theorem test_aesEncrypt_no_key : after .aesEncrypt { Regs.reset with key := fipsKey, din := fipsPlain, dout := fipsCipher }
    (fun g => (g.status, g.dout)) = some (0x04, fipsCipher) := by decide +kernel
theorem test_aesDecrypt : after .aesDecrypt { Regs.reset with key := fipsKey, din := fipsCipher, keyValid := true }
    Regs.dout = some fipsPlain := by decide +kernel
/-- V-AES row 3 (FIPS-197 Appendix B). -/
theorem test_aes_appendix_b : aes128Enc 0x2B7E151628AED2A6ABF7158809CF4F3C 0x3243F6A8885A308D313198A2E0370734 =
    0x3925841D02DC09FBDC118597196A0B32 := by decide +kernel
/-- V-AES row 4. -/
theorem test_aes_zero : aes128Enc 0 0 = 0x66E94BD4EF8A2C3B884CFA59CA342B2E := by decide +kernel
theorem test_aesKeyClear : after .aesKeyClear { Regs.reset with key := fipsKey, dout := fipsCipher, keyValid := true } id =
    some Regs.reset := by decide +kernel
theorem test_bfExtract : after .bfExtract { Regs.reset with bfA := 0x2F, bfW := 7, bfS := 2 } Regs.bfRes = some 0x17 := by
  decide
theorem test_bfExtract_illegal : after .bfExtract { Regs.reset with bfA := 0x80, bfW := 2, bfS := 8, bfRes := 0x33 }
    (fun g => (g.bfRes, g.status)) = some (0x33, 0x05) := by decide
theorem test_bfFill : after .bfFill { Regs.reset with bfA := 0xFF, bfB := 0x00, bfW := 3, bfS := 3 } Regs.bfRes =
    some 0xE3 := by decide
theorem test_bfFill_too_wide : after .bfFill { Regs.reset with bfB := 0x04, bfW := 2, bfS := 1 }
    (fun g => (g.bfRes, g.status)) = some (0x00, 0x05) := by decide

/-- The mask table of program P5 after `WR MASK0, 0x03`. -/
def p5Masks : Vector Byte 8 := #v[0x03, 0x02, 0x04, 0x08, 0x10, 0x20, 0x40, 0x80]

theorem test_bfPackFlags : after .bfPackFlags { Regs.reset with bfB := 0x01, mask := p5Masks } Regs.bfRes = some 0x03 := by
  decide
theorem test_bfUnpackFlags : after .bfUnpackFlags { Regs.reset with bfA := 0x02, mask := p5Masks } Regs.bfRes =
    some 0x03 := by decide
theorem test_rd : exec (.rd 0x0A) State.reset = .next (State.reset.hostReceives 0x55) := by rfl
theorem test_rd_key : memRead 0x23 { Regs.reset with key := fipsKey } = 0x00 := by decide
theorem test_wr_crc_high : after (.wr 0x05 0x12) Regs.reset Regs.crcS = some 0x12FF := by decide
theorem test_wr_refused : after (.wr 0x01 0x00) { Regs.reset with err := 3 } Regs.status = some 0x0B ∧
    after (.wr 0x14 0x01) Regs.reset (fun g => (g.bfRes, g.status)) = some (0x00, 0x06) := by decide

theorem test_step_idle : step State.reset = .next State.reset := by rfl
theorem test_step_reserved_byte :
    (regsOf (step (State.reset.withFetchWord 8 0x13))).map Regs.status = some 0x01 := by decide
theorem test_step_refuses : step (State.reset.withFetchWord 16 0x0601) = .refused (.notAProgramWord 0 0x0601) := by rfl

/-! ### Scripts: lines and words of programs P1, P4 and P7 -/

theorem test_script_words : assemble?
    ["CRC_BYTE 0xa2".toList, "rd crc_out1 ; => 0xd4".toList, "FILL 0x17, 3, 6, 0x04 ; x".toList, "WR 0x50, 0xaa".toList] =
    some [0x82A2, 0x8011, 0x0700, 0x9017, 0x9104, 0x9203, 0x9306, 0x8051, 0xD0AA] := by decide +kernel
theorem test_script_expansions :
    (ScriptOp.setKey fipsKey).words = [0xA000, 0xA101, 0xA202, 0xA303, 0xA404, 0xA505, 0xA606, 0xA707] ++
      [0xA808, 0xA909, 0xAA0A, 0xAB0B, 0xAC0C, 0xAD0D, 0xAE0E, 0xAF0F, 0x8040] ∧
    (ScriptOp.crcCmp 0x3C 0xD4).words = [0x883C, 0x89D4, 0x8012] ∧ (ScriptOp.unstuff 0x7D).words = [0x827D, 0x8032] ∧
    (ScriptOp.extract 0x2F 7 2).words = [0x902F, 0x9207, 0x9302, 0x8050] := by decide +kernel
theorem test_script_expected : readLine? "RD STATUS ; => 0x40".toList = some ⟨some (.rd 0x01), some 0x40⟩ := by
  decide +kernel
theorem test_script_refuses : readLine? "WR STATUS".toList = none ∧ readLine? "RD KEY16".toList = none := by
  decide +kernel

/-! ### Witnesses: what the hypotheses of each statement admit -/

/-- A state with one event pending. -/
def pendingState (e : Event) : State := { State.reset with host := { State.reset.host with pending := [e] } }

theorem test_witness_SoftResetEqualsHardwareReset :
    (pendingState .platformReset).host.pending = .platformReset :: [] := rfl
theorem test_witness_CommandWriteRunsTheCommand :
    decodeCommand 0x00 = some .nop ∧ decodeCommand 0x53 = some .bfUnpackFlags ∧
    decodeCommand 0x03 = none ∧ decodeCommand 0xFF = none := by decide
theorem test_witness_ReservedCommandBytesRaise :
    ∀ c ∈ [0x03, 0x0F, 0x13, 0x1F, 0x23, 0x2F, 0x34, 0x3F, 0x44, 0x4F, 0x54, 0x5F, 0x60, (0xFF : Byte)],
      isReservedCommand c := by unfold isReservedCommand; decide
theorem test_witness_ReadReturnsTheRegisterAndChangesNothing :
    (∀ a ∈ [0x03, 0x0B, 0x0F, 0x15, 0x17, 0x50, (0x7F : Addr)], isReservedAddr a) ∧
    ((0x1F : Addr).toNat = 0x18 + (7 : Fin 8).val) ∧ ((0x2F : Addr).toNat = 0x20 + (15 : Fin 16).val) ∧
    ((0x3F : Addr).toNat = 0x30 + (15 : Fin 16).val) ∧ ((0x4F : Addr).toNat = 0x40 + (15 : Fin 16).val) := by
  unfold isReservedAddr; decide
theorem test_witness_WriteStoresAnRwRegister :
    ∀ a ∈ [0x02, 0x04, 0x05, 0x08, 0x0A, 0x10, 0x13, 0x18, 0x1F, 0x30, (0x3F : Addr)], isRwAddr a := by
  unfold isRwAddr; decide
theorem test_witness_RefusedWriteRaisesIllegalAccess :
    ∀ a ∈ [0x01, 0x03, 0x06, 0x07, 0x0C, 0x14, 0x15, 0x40, 0x4F, 0x50, (0x7F : Addr)], isRoAddr a ∨ isReservedAddr a := by
  unfold isRoAddr isReservedAddr; decide
theorem test_witness_CrcCheckComparesInWireOrder :
    after .crcCheck Regs.reset Regs.chkOk = some true ∧
    after .crcCheck { Regs.reset with crcExp1 := 0x01 } Regs.chkOk = some false := by decide
theorem test_witness_LrcCheckComparesWithOpnd :
    after .lrcCheck { Regs.reset with opnd := 0x55 } Regs.chkOk = some true ∧
    after .lrcCheck Regs.reset Regs.chkOk = some false := by decide
theorem test_witness_recordsError : Regs.reset.err = 0 ∧ escError.err ≠ 0 := by decide
theorem test_witness_StuffByteEscapesReservedBytes :
    { Regs.reset with opnd := 0x7E }.opnd = 0x7E ∧ { Regs.reset with opnd := 0x7D }.opnd = 0x7D ∧
    Regs.reset.opnd ≠ 0x7E ∧ Regs.reset.opnd ≠ 0x7D := by decide
theorem test_witness_UnstuffByteUndoesOneByte :
    Regs.reset.escPending = false ∧ Regs.reset.opnd ≠ 0x7D ∧ Regs.reset.opnd ≠ 0x7E ∧
    escError.escPending = true ∧ escError.opnd ≠ 0x5E ∧ escError.opnd ≠ 0x5D ∧
    { escError with opnd := 0x5D }.escPending = true ∧ { escError with opnd := 0x5E }.opnd = 0x5E := by decide
theorem test_witness_UnstuffEndRejectsAPendingEscape :
    Regs.reset.escPending = false ∧ escError.escPending = true := by decide
theorem test_witness_UnstuffAcceptsExactlyStuffedSequences :
    Regs.reset.escPending = false ∧ Regs.reset.err = 0 ∧ [0x7D, 0x5E, 0x11] = stuff [0x7E, 0x11] := by decide
theorem test_witness_UnstuffAfterStuffIsTheIdentity : (memWrite 0x00 0x30 escError).escPending = false := by decide
theorem test_witness_AesEncryptWritesTheCipherBlock :
    { Regs.reset with keyValid := true }.keyValid = true ∧ Regs.reset.keyValid = false := by decide
theorem test_witness_AesDecryptWritesThePlainBlock :
    { Regs.reset with keyValid := true }.keyValid = true ∧ Regs.reset.keyValid = false := by decide
theorem test_witness_AesRoundTripThroughTheWrapper : { Regs.reset with keyValid := true }.keyValid = true := by decide
theorem test_witness_AesKeyClearZeroesKeyAndOutput :
    (0x3F : Addr) ≠ 0x01 ∧ (0x3F : Addr).toNat < 0x40 ∧ 0x4F < (0x50 : Addr).toNat := by decide
theorem test_witness_BfExtractReturnsTheField :
    legalField 8 1 = true ∧ legalField 1 8 = true ∧ legalField 2 8 = false ∧ legalField 0 1 = false ∧
    legalField 1 0 = false ∧ legalField 9 1 = false := by decide
theorem test_witness_BfFillReplacesTheField :
    legalField 8 1 = true ∧ (0xFF : Byte).toNat < 2 ^ 8 ∧ legalField 1 8 = true ∧ (0x01 : Byte).toNat < 2 ^ 1 ∧
    ¬(0x02 : Byte).toNat < 2 ^ 1 := by decide
theorem test_witness_FieldFillLaws :
    1 ≤ 7 ∧ 0 + 7 ≤ 8 ∧ 1 ≤ 1 ∧ 7 + 1 ≤ 8 ∧ 0 + 7 ≤ 7 ∧ (0x7F : Byte).toNat < 2 ^ 7 ∧ (0x01 : Byte).toNat < 2 ^ 1 ∧
    fillField (fillField 0x00 7 0 0x7F) 1 7 0x01 = 0xFF := by decide
theorem test_witness_PackAfterUnpackIsTheIdentityExactlyWhen :
    packFlags (unpackFlags 0x02 p5Masks) p5Masks ≠ 0x02 ∧
    packFlags (unpackFlags 0x03 p5Masks) p5Masks = 0x03 := by decide

/-- A NOP runs no other command. -/
theorem nop_runs_only_nop (c : Instr) (h : c ≠ .nop) : ¬runsCommand .nop c := by
  rintro (hc | ⟨b, hb, _⟩)
  · exact h hc.symm
  · cases hb

theorem test_witness_FirstErrorStaysUntilAcknowledged :
    exec .nop (withRegs escError) = .next (withRegs escError) ∧ (withRegs escError).regs.err ≠ 0 ∧
    ¬runsCommand .nop .clrErr ∧ ¬runsCommand .nop .softReset :=
  ⟨rfl, by decide, nop_runs_only_nop _ (by decide), nop_runs_only_nop _ (by decide)⟩
theorem test_witness_QuietAccessesRaiseNothing :
    runsCommand .nop .nop ∧ runsCommand (.wr 0x00 0x10) .crcInit ∧ runsCommand .softReset .softReset ∧
    runsCommand .clrErr .clrErr ∧ (0x20 ≤ (0x20 : Addr).toNat ∧ (0x2F : Addr).toNat ≤ 0x2F) :=
  ⟨.inl rfl, .inr ⟨0x10, rfl, by decide⟩, .inl rfl, .inl rfl, by decide⟩
theorem test_witness_ErrorCodesNameTheirCause :
    (memWrite 0x00 0x13 Regs.reset).err = 1 ∧ (memWrite 0x00 0x22 Regs.reset).err = 2 ∧
    (memWrite 0x00 0x33 { Regs.reset with escPending := true }).err = 3 ∧ (memWrite 0x00 0x41 Regs.reset).err = 4 ∧
    (memWrite 0x00 0x50 Regs.reset).err = 5 ∧ (memWrite 0x7F 0x00 Regs.reset).err = 6 := by decide
theorem test_witness_RecordedErrorsBlockNothing : Instr.nop ≠ .rd 0x01 ∧ Instr.rd 0x00 ≠ .rd 0x01 := by decide
theorem test_witness_UnitFlagsHaveTheirWriters :
    (memWrite 0x00 0x40 Regs.reset).keyValid = true ∧ (memWrite 0x2F 0x00 { Regs.reset with keyValid := true }).keyValid = false ∧
    (memWrite 0x00 0x30 escError).escPending = false ∧ (memWrite 0x00 0x12 Regs.reset).chkOk = true := by decide
theorem test_witness_CommandsNeverWriteOperandRegisters :
    exec .nop State.reset = .next State.reset ∧ (∀ a v, Instr.nop = .wr a v → a = 0x00) ∧ ¬runsCommand .nop .softReset :=
  ⟨rfl, (fun _ _ h => nomatch h), nop_runs_only_nop _ (by decide)⟩
theorem test_witness_UnitRegistersHaveTheirWriters :
    (memWrite 0x04 0x00 Regs.reset).crcS ≠ Regs.reset.crcS ∧ (memWrite 0x0A 0x00 Regs.reset).lrcS ≠ Regs.reset.lrcS ∧
    (memWrite 0x00 0x31 Regs.reset).soutCnt ≠ Regs.reset.soutCnt ∧
    (memWrite 0x00 0x52 { Regs.reset with bfB := 1, mask := p5Masks }).bfRes ≠ Regs.reset.bfRes ∧
    (memWrite 0x20 0x01 Regs.reset).key ≠ Regs.reset.key ∧
    (memWrite 0x00 0x43 { Regs.reset with dout := fipsCipher }).dout ≠ fipsCipher := by decide
theorem test_witness_KeyIsReadOnlyThroughTheCipher :
    ¬runsCommand .nop .aesEncrypt ∧ ¬runsCommand .nop .aesDecrypt :=
  ⟨nop_runs_only_nop _ (by decide), nop_runs_only_nop _ (by decide)⟩
theorem test_witness_StepKeepsTheRegisterInvariant :
    (pendingState (.access (.cmd8 0x31))).regs.Inv ∧
    step (pendingState (.access (.cmd8 0x31))) = .next ((pendingState (.access (.cmd8 0x31))).takeAccess.onRegs stuffByteEffect) := by
  unfold Regs.Inv; exact ⟨by decide, rfl⟩
theorem test_witness_StepRunsTheDecodedInstruction :
    (pendingState (.access (.cmd8 0x11))).host.pending = .access (.cmd8 0x11) :: [] ∧
    decode (.cmd8 0x11) = .ok .crcUpdate := ⟨rfl, by decide⟩
theorem test_witness_StepStopsOnlyOnAWordThatIsNoAccess :
    State.reset.host.pending = [] ∧ HostWord.isProgramWord (.bus16 0x7FFF) = false ∧
    (pendingState (.access (.bus16 0x7FFF))).host.pending = .access (.bus16 0x7FFF) :: [] ∧
    HostWord.isProgramWord (.bus16 0x8000) = true ∧
    (pendingState (.access (.bus16 0x8000))).host.pending = .access (.bus16 0x8000) :: [] :=
  ⟨rfl, by decide, rfl, by decide, rfl⟩
theorem test_witness_CommandByteAndItsWriteWordAgree :
    (pendingState (.access (.cmd8 0x13))).host.pending = .access (.cmd8 0x13) :: [] ∧
    pendingState (.access (.bus16 (0x80#8 ++ 0x13#8))) = { pendingState (.access (.cmd8 0x13)) with
      host := { (pendingState (.access (.cmd8 0x13))).host with pending := .access (.bus16 (0x80#8 ++ 0x13#8)) :: [] } } :=
  ⟨rfl, rfl⟩
theorem test_witness_EncodeOfDecodeIsTheWord : decode (.bus16 0x80FF) = .ok (.wr 0x00 0xFF) := by decide
theorem test_witness_AssembledScriptsAreNeverRefused :
    programOf? ["RD CMD".toList, "NOP".toList] = some [.bus16 0x0000, .bus16 0x8000] := by decide +kernel

end Sys2Proof.Machine.Tests
end

/-! Block packing (R8, R182): the bytes that `packBlock` shifts in, and the 128-bit values `unpackBlock` takes apart. -/

namespace Sys2Proof.Machine

/-- One step of `packBlock`'s fold: the bytes so far move up by one and `x` becomes the least significant byte. -/
def shiftInByte (acc : Word128) (x : Byte) : Word128 := (acc <<< 8) ||| x.setWidth 128

theorem packBlock_eq_foldl_shiftInByte (b : Block) : packBlock b = b.toList.foldl shiftInByte 0 := rfl

@[simp] theorem getLsbD_shiftInByte_low (acc : Word128) (x : Byte) {j : Nat} (hj : j < 8) :
    (shiftInByte acc x).getLsbD j = x.getLsbD j := by
  have hword : j < 128 := by omega
  simp [shiftInByte, hj, hword]

@[simp] theorem getLsbD_shiftInByte_high (acc : Word128) (x : Byte) {j : Nat} (hj : j + 8 < 128) :
    (shiftInByte acc x).getLsbD (j + 8) = acc.getLsbD j := by
  have hword : j < 128 := by omega
  simp [shiftInByte, hj, BitVec.getLsbD_eq_getElem hword]

/-- Shifting in the bytes `xs` moves every bit of the start value up by their total width. -/
theorem getLsbD_foldl_shiftInByte (xs : List Byte) (acc : Word128) (j : Nat) (hj : j + 8 * xs.length < 128) :
    (xs.foldl shiftInByte acc).getLsbD (j + 8 * xs.length) = acc.getLsbD j := by
  induction xs generalizing acc j with
  | nil => rfl
  | cons x xs ih =>
    rw [List.length_cons] at hj ⊢
    calc ((x :: xs).foldl shiftInByte acc).getLsbD (j + 8 * (xs.length + 1))
        = (xs.foldl shiftInByte (shiftInByte acc x)).getLsbD (j + 8 + 8 * xs.length) := by
          rw [List.foldl_cons]; congr 1; omega
      _ = (shiftInByte acc x).getLsbD (j + 8) := ih _ _ (by omega)
      _ = acc.getLsbD j := getLsbD_shiftInByte_high acc x (by omega)

/-- As long as the bytes fit in the word, byte `i` of `xs` ends above the bytes shifted in after it. -/
theorem extractLsb'_foldl_shiftInByte (xs : List Byte) (acc : Word128) (hfit : 8 * xs.length ≤ 128)
    (i : Nat) (hi : i < xs.length) :
    (xs.foldl shiftInByte acc).extractLsb' (8 * (xs.length - 1 - i)) 8 = xs[i] := by
  induction xs generalizing acc i with
  | nil => cases hi
  | cons x xs ih =>
    rw [List.length_cons] at hfit hi
    rw [List.foldl_cons, List.length_cons, Nat.add_sub_cancel]
    cases i with
    | zero =>
      ext j hj
      have hbit := getLsbD_foldl_shiftInByte xs (shiftInByte acc x) j (by omega)
      rw [getLsbD_shiftInByte_low acc x hj, Nat.add_comm] at hbit
      simpa [hj] using hbit
    | succ i =>
      have hpos : xs.length - (i + 1) = xs.length - 1 - i := by omega
      rw [hpos]
      exact ih _ (by omega) i (by omega)

/-- R8 and R182: byte `i` of a block is the byte `120 - 8 * i` bits up in its value, so byte 0 is the top one. -/
theorem extractLsb'_packBlock (b : Block) (i : Fin 16) :
    (packBlock b).extractLsb' (120 - 8 * i.val) 8 = b[i] := by
  have hbyte := extractLsb'_foldl_shiftInByte b.toList 0 (by simp) i.val (by simp)
  have hpos : 8 * (b.toList.length - 1 - i.val) = 120 - 8 * i.val := by simp; omega
  rw [hpos, ← packBlock_eq_foldl_shiftInByte] at hbyte
  simpa using hbyte

@[simp] theorem getElem_unpackBlock (w : Word128) (i : Nat) (hi : i < 16) :
    (unpackBlock w)[i] = w.extractLsb' (120 - 8 * i) 8 := by
  simp [unpackBlock]

/-- The sixteen bytes of a 128-bit value determine it: bit `j` is bit `j % 8` of byte `15 - j / 8`. -/
theorem word128_eq_of_bytes {v w : Word128}
    (h : ∀ i : Fin 16, v.extractLsb' (120 - 8 * i.val) 8 = w.extractLsb' (120 - 8 * i.val) 8) : v = w := by
  apply BitVec.eq_of_getLsbD_eq
  intro j hj
  have hbit := congrArg (·.getLsbD (j % 8)) (h ⟨15 - j / 8, by omega⟩)
  have hpos : 120 - 8 * (15 - j / 8) + j % 8 = j := by omega
  simpa [hpos, Nat.mod_lt] using hbit

@[simp] theorem unpackBlock_packBlock (b : Block) : unpackBlock (packBlock b) = b := by
  refine Vector.ext fun i hi => ?_
  rw [getElem_unpackBlock]
  exact extractLsb'_packBlock b ⟨i, hi⟩

@[simp] theorem packBlock_unpackBlock (w : Word128) : packBlock (unpackBlock w) = w :=
  word128_eq_of_bytes fun i => (extractLsb'_packBlock _ i).trans (getElem_unpackBlock w i i.isLt)

/-- Settles O36: the byte order by induction over the bytes shifted in; both inverses because a block and a
128-bit value are each determined by their sixteen bytes. -/
theorem blockPackingKeepsByteOrder : Obligations.BlockPackingKeepsByteOrder :=
  ⟨extractLsb'_packBlock, unpackBlock_packBlock, packBlock_unpackBlock⟩

end Sys2Proof.Machine

/-! The register map (R23, R40): a table of 128 addresses, each fact about it evaluated at every address. -/

namespace Sys2Proof.Machine

/-- The map sends the address of a register back to that register. -/
theorem regAt_of_addr? {r : RegName} {a : Addr} (h : r.addr? = some a) : regAt a = r := by
  cases r with
  | reserved => cases h
  | mask i => cases h; revert i; decide
  | key i => cases h; revert i; decide
  | din i => cases h; revert i; decide
  | dout i => cases h; revert i; decide
  | _ => cases h; rfl

theorem addr?_regAt : ∀ a : Addr, regAt a ≠ .reserved → (regAt a).addr? = some a := by decide

/-- R23: the address of a register and the register at an address are inverse to each other. -/
theorem addr?_eq_some_iff (r : RegName) (a : Addr) : r.addr? = some a ↔ regAt a = r ∧ r ≠ .reserved := by
  constructor
  · intro h
    refine ⟨regAt_of_addr? h, ?_⟩
    rintro rfl
    cases h
  · rintro ⟨rfl, hr⟩
    exact addr?_regAt a hr

/-- The one address at which a register with an address is found. -/
theorem eq_of_regAt {r : RegName} {a b : Addr} (hb : r.addr? = some b) (ha : regAt a = r) : a = b := by
  have hr : r ≠ .reserved := ((addr?_eq_some_iff r b).mp hb).2
  exact Option.some.inj (((addr?_eq_some_iff r a).mpr ⟨ha, hr⟩).symm.trans hb)

theorem regAt_eq_reserved_iff : ∀ a : Addr, regAt a = .reserved ↔ isReservedAddr a := by
  unfold isReservedAddr
  decide

theorem access_regAt_eq_rw_iff : ∀ a : Addr, (regAt a).access = .rw ↔ isRwAddr a := by
  unfold isRwAddr
  decide

theorem access_regAt_eq_ro_iff : ∀ a : Addr, (regAt a).access = .ro ↔ isRoAddr a := by
  unfold isRoAddr
  decide

theorem access_regAt_eq_wo_iff : ∀ a : Addr, (regAt a).access = .wo ↔ 0x20 ≤ a.toNat ∧ a.toNat ≤ 0x2F := by
  decide

theorem access_regAt_eq_port_iff : ∀ a : Addr, (regAt a).access = .port ↔ a = 0x00 := by
  decide

/-- The write-only registers are the key bytes (R37). -/
theorem access_eq_wo_iff (r : RegName) : r.access = .wo ↔ ∃ k, r = .key k := by
  cases r <;> simp [RegName.access]

/-- The key bytes stand at 0x20 to 0x2F (R37). -/
theorem keyAddr_range {a : Addr} {k : Fin 16} (h : regAt a = .key k) : 0x20 ≤ a.toNat ∧ a.toNat ≤ 0x2F :=
  (access_regAt_eq_wo_iff a).mp ((access_eq_wo_iff _).mpr ⟨k, h⟩)

/-- Settles O13: the map and its inverse agree, and each access code is read off the table. -/
theorem registerMapNamesEachRegisterOnce : Obligations.RegisterMapNamesEachRegisterOnce :=
  ⟨addr?_eq_some_iff, regAt_eq_reserved_iff, access_regAt_eq_rw_iff, access_regAt_eq_ro_iff,
    access_regAt_eq_wo_iff, access_regAt_eq_port_iff⟩

end Sys2Proof.Machine

/-! The values after reset (R42). -/

namespace Sys2Proof.Machine

/-- After reset every register but CRC_S and LRC_S reads 0x00. -/
theorem readReg_reset {r : RegName} (hlo : r ≠ .crcSLo) (hhi : r ≠ .crcSHi) (hlrc : r ≠ .lrcS) :
    readReg r Regs.reset = 0x00 := by
  cases r with
  | crcSLo => exact absurd rfl hlo
  | crcSHi => exact absurd rfl hhi
  | lrcS => exact absurd rfl hlrc
  | mask i | din i | dout i => simp [readReg, Regs.reset]
  | _ => rfl

theorem memRead_reset {a : Addr} (h : a ∉ [0x04, 0x05, 0x0A]) : memRead a Regs.reset = 0x00 := by
  simp only [List.mem_cons, List.not_mem_nil, or_false, not_or] at h
  obtain ⟨hlo, hhi, hlrc⟩ := h
  exact readReg_reset (fun hr => hlo (eq_of_regAt rfl hr)) (fun hr => hhi (eq_of_regAt rfl hr))
    (fun hr => hlrc (eq_of_regAt rfl hr))

theorem reset_inv : Regs.reset.Inv := by
  unfold Regs.Inv
  decide

/-- Settles O1: the flags, CRC_S, LRC_S and the key by their fields, every other register by what it reads. -/
theorem resetLeavesEveryRegisterAtItsValue : Obligations.ResetLeavesEveryRegisterAtItsValue :=
  ⟨rfl, rfl, rfl, rfl, rfl, rfl, rfl, by simp [Regs.reset], fun _ h => memRead_reset h, rfl⟩

/-- Settles O53. -/
theorem resetHasTheRegisterInvariant : Obligations.ResetHasTheRegisterInvariant := reset_inv

end Sys2Proof.Machine

/-! What an access can do to the registers (R103 to R107), said once for every instruction. -/

namespace Sys2Proof.Machine

/-- `RegsEffect i f`: the access `i`, which is no read, changes the registers by `f`. -/
inductive RegsEffect (i : Instr) : (Regs → Regs) → Prop
  /-- The command byte, or the write of it to CMD (R103). -/
  | command (c : Instr) (run : runsCommand i c) (noRead : ∀ a, c ≠ .rd a) (noWrite : ∀ a v, c ≠ .wr a v) :
    RegsEffect i (commandEffect c)
  /-- A reserved byte written to CMD (R84, R103). -/
  | reservedCommand (c : Byte) (write : i = .wr 0x00 c) (reserved : decodeCommand c = none) :
    RegsEffect i (raise .illegalCmd)
  /-- A write to KEY[k] (R107). -/
  | keyWrite (a : Addr) (v : Byte) (k : Fin 16) (write : i = .wr a v) (atKey : regAt a = .key k) :
    RegsEffect i (storeKey k v)
  /-- A write to an RW register (R105). -/
  | store (a : Addr) (v : Byte) (write : i = .wr a v) (isRw : (regAt a).access = .rw) :
    RegsEffect i (storeReg (regAt a) v)
  /-- A write to an RO or a reserved address (R106). -/
  | refusedWrite (a : Addr) (v : Byte) (write : i = .wr a v)
    (refused : (regAt a).access = .ro ∨ (regAt a).access = .none) : RegsEffect i (raise .illegalAccess)

theorem runCommand_of_some {c : Byte} {i : Instr} (h : decodeCommand c = some i) :
    runCommand c = commandEffect i := by
  funext g
  simp [runCommand, h]

theorem runCommand_of_none {c : Byte} (h : decodeCommand c = none) : runCommand c = raise .illegalCmd := by
  funext g
  simp [runCommand, h]

theorem memWrite_cmd (c : Byte) : memWrite 0x00 c = runCommand c := rfl

theorem memWrite_key {a : Addr} {k : Fin 16} (h : regAt a = .key k) (v : Byte) :
    memWrite a v = storeKey k v := by
  funext g
  simp [memWrite, h]

theorem memWrite_rw {a : Addr} (h : (regAt a).access = .rw) (v : Byte) :
    memWrite a v = storeReg (regAt a) v := by
  funext g
  obtain ⟨hr, _⟩ | ⟨_, hr, _⟩ | ⟨_, hstore⟩ | ⟨hr, _⟩ := memWrite_cases a v g
  · simp [hr, RegName.access] at h
  · simp [hr, RegName.access] at h
  · exact hstore
  · simp [h] at hr

theorem memWrite_refused {a : Addr} (h : (regAt a).access = .ro ∨ (regAt a).access = .none) (v : Byte) :
    memWrite a v = raise .illegalAccess := by
  funext g
  obtain ⟨hr, _⟩ | ⟨_, hr, _⟩ | ⟨hr, _⟩ | ⟨_, hraise⟩ := memWrite_cases a v g
  · simp [hr, RegName.access] at h
  · simp [hr, RegName.access] at h
  · simp [hr] at h
  · exact hraise

theorem regsEffect_runCommand (c : Byte) : RegsEffect (.wr 0x00 c) (runCommand c) := by
  cases h : decodeCommand c with
  | none => exact runCommand_of_none h ▸ .reservedCommand c rfl h
  | some i =>
    obtain ⟨noRead, noWrite⟩ := decodeCommand_isCommand h
    exact runCommand_of_some h ▸ .command i (.inr ⟨c, rfl, h⟩) noRead noWrite

theorem regsEffect_memWrite (a : Addr) (v : Byte) : RegsEffect (.wr a v) (memWrite a v) := by
  cases h : (regAt a).access with
  | rw => exact memWrite_rw h v ▸ .store a v rfl h
  | ro => exact memWrite_refused (.inl h) v ▸ .refusedWrite a v rfl (.inl h)
  | none => exact memWrite_refused (.inr h) v ▸ .refusedWrite a v rfl (.inr h)
  | wo =>
    obtain ⟨k, hk⟩ := (access_eq_wo_iff _).mp h
    exact memWrite_key hk v ▸ .keyWrite a v k rfl hk
  | port =>
    obtain rfl := (access_regAt_eq_port_iff a).mp h
    exact regsEffect_runCommand v

/-- An access is a read, or it changes the registers by one of the effects of `RegsEffect` and leaves the host's
side alone. -/
theorem exec_cases (i : Instr) :
    (∃ a, i = .rd a) ∨ ∃ f, RegsEffect i f ∧ ∀ s, exec i s = .next (s.onRegs f) := by
  cases i with
  | rd a => exact .inl ⟨a, rfl⟩
  | wr a v => exact .inr ⟨_, regsEffect_memWrite a v, exec_wr a v⟩
  | _ => exact .inr ⟨_, .command _ (.inl rfl) nofun nofun, fun _ => rfl⟩

/-- The registers after an access. -/
theorem exec_regs {i : Instr} {s t : State} (h : exec i s = .next t) :
    t.regs = s.regs ∨ ∃ f, RegsEffect i f ∧ t.regs = f s.regs := by
  obtain ⟨a, rfl⟩ | ⟨f, heff, hexec⟩ := exec_cases i
  · cases h
    exact .inl rfl
  · rw [hexec] at h
    cases h
    exact .inr ⟨f, heff, rfl⟩

/-- A store writes no field but those of the RW registers (R23, R105). -/
theorem storeReg_frame (r : RegName) (v : Byte) (g : Regs) :
    storeReg r v g =
      { g with
        opnd := (storeReg r v g).opnd, crcS := (storeReg r v g).crcS, crcExp0 := (storeReg r v g).crcExp0
        crcExp1 := (storeReg r v g).crcExp1, lrcS := (storeReg r v g).lrcS, bfA := (storeReg r v g).bfA
        bfB := (storeReg r v g).bfB, bfW := (storeReg r v g).bfW, bfS := (storeReg r v g).bfS
        mask := (storeReg r v g).mask, din := (storeReg r v g).din } := by
  cases r <;> rfl

end Sys2Proof.Machine

/-! The register invariant (R25, R31, R221), one lemma for each operation and then for each access. -/

namespace Sys2Proof.Machine

theorem inv_ite {p : Prop} [Decidable p] {g h : Regs} (hg : g.Inv) (hh : h.Inv) : (if p then g else h).Inv := by
  split
  · exact hg
  · exact hh

theorem raise_inv (e : ErrorName) {g : Regs} (hg : g.Inv) : (raise e g).Inv := by
  obtain ⟨herr, hovf, hsout⟩ := hg
  obtain ⟨hcode, hcode7⟩ := e.code_ne
  obtain ⟨_, h⟩ | ⟨hne, h⟩ := raise_cases e g
  · rw [h]
    exact ⟨hcode7, fun _ => hcode, hsout⟩
  · rw [h]
    exact ⟨herr, fun _ => hne, hsout⟩

theorem acknowledge_inv {g : Regs} (hg : g.Inv) : g.acknowledge.Inv := by
  obtain ⟨_, _, hsout⟩ := hg
  exact ⟨by simp, by simp, hsout⟩

theorem recordCheck_inv (ok : Bool) {g : Regs} (hg : g.Inv) : (recordCheck ok g).Inv := by
  obtain ⟨_, h⟩ | ⟨_, h⟩ := recordCheck_cases ok g
  · rw [h]
    exact hg
  · rw [h]
    exact raise_inv .checksum (g := { g with chkOk := false }) hg

theorem setSout_inv (out : List Byte) {g : Regs} (hg : g.Inv) : (setSout g out).Inv := by
  obtain ⟨herr, hovf, _⟩ := hg
  match out with
  | [] => exact ⟨herr, hovf, by simp, by simp, by simp⟩
  | [a] => exact ⟨herr, hovf, by simp, by simp, by simp⟩
  | a :: b :: _ => exact ⟨herr, hovf, by simp [setSout], by simp [setSout], by simp [setSout]⟩

/-- R164: each branch of UNSTUFF_BYTE sets the output registers or raises FORMAT. -/
theorem unstuffByteEffect_inv {g : Regs} (hg : g.Inv) : (unstuffByteEffect g).Inv :=
  have format := raise_inv .format hg
  have out (l : List Byte) := setSout_inv l hg
  inv_ite (inv_ite (out []) (inv_ite format (out [_]))) (inv_ite (out [_]) format)

/-- The commands not named here write no field of the invariant. -/
theorem commandEffect_inv (c : Instr) {g : Regs} (hg : g.Inv) : (commandEffect c g).Inv := by
  cases c with
  | softReset => exact reset_inv
  | clrErr => exact acknowledge_inv hg
  | crcCheck | lrcCheck => exact recordCheck_inv _ hg
  | stuffClear =>
    have out := setSout_inv [] hg
    exact out
  | stuffByte => exact setSout_inv _ hg
  | unstuffByte => exact unstuffByteEffect_inv hg
  | unstuffEnd => exact inv_ite (raise_inv .format hg) hg
  | aesEncrypt | aesDecrypt =>
    have kept (dout : Block) : ({ g with dout := dout } : Regs).Inv := hg
    exact inv_ite (kept _) (raise_inv .noKey hg)
  | bfExtract => exact inv_ite hg (raise_inv .field hg)
  | bfFill => exact inv_ite (inv_ite (raise_inv .field hg) hg) (raise_inv .field hg)
  | rd | wr => exact raise_inv .illegalCmd hg
  | _ => exact hg

theorem storeReg_inv (r : RegName) (v : Byte) {g : Regs} (hg : g.Inv) : (storeReg r v g).Inv := by
  rw [storeReg_frame]
  exact hg

theorem RegsEffect.inv {i : Instr} {f : Regs → Regs} (h : RegsEffect i f) {g : Regs} (hg : g.Inv) : (f g).Inv := by
  cases h with
  | command c => exact commandEffect_inv c hg
  | reservedCommand => exact raise_inv .illegalCmd hg
  | keyWrite => exact hg
  | store a v => exact storeReg_inv _ v hg
  | refusedWrite => exact raise_inv .illegalAccess hg

/-- Every access keeps the register invariant. -/
theorem exec_inv {i : Instr} {s t : State} (hs : s.regs.Inv) (h : exec i s = .next t) : t.regs.Inv := by
  obtain hsame | ⟨f, heff, ht⟩ := exec_regs h
  · rw [hsame]
    exact hs
  · rw [ht]
    exact heff.inv hs

/-- Settles O52: a step does nothing, resets, or runs one access. -/
theorem stepKeepsTheRegisterInvariant : Obligations.StepKeepsTheRegisterInvariant := by
  intro s t hs h
  obtain ⟨_, hstep⟩ | ⟨_, _, hstep⟩ | ⟨_, _, _, _, _, hstep⟩ | ⟨_, _, _, _, _, hstep⟩ | ⟨_, _, _, _, _, hstep⟩ :=
    step_cases s
  · cases hstep.symm.trans h
    exact hs
  · cases hstep.symm.trans h
    exact reset_inv
  · exact exec_inv (s := s.takeAccess) hs (hstep.symm.trans h)
  · exact exec_inv (s := s.takeAccess) hs (hstep.symm.trans h)
  · cases hstep.symm.trans h

end Sys2Proof.Machine

/-! Which fields each command may write (R25 to R39), said once for every command. -/

namespace Sys2Proof.Machine

/-- The registers `g` with the fields that the rule of the command `c` may write taken from `g'`. -/
def writtenBy (c : Instr) (g g' : Regs) : Regs :=
  match c with
  | .nop => g
  | .softReset => g'
  | .clrErr | .unstuffEnd | .rd _ | .wr _ _ => { g with err := g'.err, errOvf := g'.errOvf }
  | .crcInit | .crcUpdate => { g with crcS := g'.crcS }
  | .lrcInit | .lrcUpdate => { g with lrcS := g'.lrcS }
  | .crcCheck | .lrcCheck => { g with err := g'.err, errOvf := g'.errOvf, chkOk := g'.chkOk }
  | .stuffClear =>
    { g with escPending := g'.escPending, sout0 := g'.sout0, sout1 := g'.sout1, soutCnt := g'.soutCnt }
  | .stuffByte => { g with sout0 := g'.sout0, sout1 := g'.sout1, soutCnt := g'.soutCnt }
  | .unstuffByte =>
    { g with
      err := g'.err, errOvf := g'.errOvf, escPending := g'.escPending
      sout0 := g'.sout0, sout1 := g'.sout1, soutCnt := g'.soutCnt }
  | .aesKeyCommit => { g with keyValid := g'.keyValid }
  | .aesEncrypt | .aesDecrypt => { g with err := g'.err, errOvf := g'.errOvf, dout := g'.dout }
  | .aesKeyClear => { g with keyValid := g'.keyValid, key := g'.key, dout := g'.dout }
  | .bfExtract | .bfFill => { g with err := g'.err, errOvf := g'.errOvf, bfRes := g'.bfRes }
  | .bfPackFlags | .bfUnpackFlags => { g with bfRes := g'.bfRes }

theorem recordCheck_frame (ok : Bool) (g : Regs) :
    recordCheck ok g =
      { g with
        err := (recordCheck ok g).err, errOvf := (recordCheck ok g).errOvf, chkOk := (recordCheck ok g).chkOk } := by
  obtain ⟨_, h⟩ | ⟨_, h⟩ := recordCheck_cases ok g
  · rw [h]
  · rw [h, raise_frame]

theorem setSout_frame (g : Regs) (out : List Byte) :
    setSout g out =
      { g with
        sout0 := (setSout g out).sout0, sout1 := (setSout g out).sout1, soutCnt := (setSout g out).soutCnt } :=
  match out with
  | [] | [_] | _ :: _ :: _ => rfl

/-- A command that may write the error record may raise. -/
theorem raise_eq_writtenBy {c : Instr} (e : ErrorName) (g : Regs)
    (hc : ∀ err ovf, ({ g with err := err, errOvf := ovf } : Regs) =
      writtenBy c g { g with err := err, errOvf := ovf }) :
    raise e g = writtenBy c g (raise e g) := by
  rw [raise_frame]
  exact hc _ _

/-- A branch of a command writes no more than the command may. -/
theorem ite_eq_writtenBy {c : Instr} {p : Prop} [Decidable p] {g a b : Regs}
    (ha : a = writtenBy c g a) (hb : b = writtenBy c g b) :
    (if p then a else b) = writtenBy c g (if p then a else b) := by
  split
  · exact ha
  · exact hb

/-- A command writes no field but those of `writtenBy`. -/
theorem commandEffect_eq_writtenBy (c : Instr) (g : Regs) :
    commandEffect c g = writtenBy c g (commandEffect c g) := by
  cases c with
  | crcCheck | lrcCheck => exact recordCheck_frame _ g
  | stuffByte => exact setSout_frame g _
  | unstuffByte =>
    have format := raise_eq_writtenBy (c := .unstuffByte) .format g fun _ _ => rfl
    exact ite_eq_writtenBy (ite_eq_writtenBy rfl (ite_eq_writtenBy format rfl)) (ite_eq_writtenBy rfl format)
  | unstuffEnd => exact ite_eq_writtenBy (raise_eq_writtenBy .format g fun _ _ => rfl) rfl
  | aesEncrypt => exact ite_eq_writtenBy rfl (raise_eq_writtenBy (c := .aesEncrypt) .noKey g fun _ _ => rfl)
  | aesDecrypt => exact ite_eq_writtenBy rfl (raise_eq_writtenBy (c := .aesDecrypt) .noKey g fun _ _ => rfl)
  | bfExtract => exact ite_eq_writtenBy rfl (raise_eq_writtenBy (c := .bfExtract) .field g fun _ _ => rfl)
  | bfFill =>
    have field := raise_eq_writtenBy (c := .bfFill) .field g fun _ _ => rfl
    exact ite_eq_writtenBy (ite_eq_writtenBy field rfl) field
  | rd | wr => exact raise_frame .illegalCmd g
  | _ => rfl

end Sys2Proof.Machine

/-! The writers of each field, by the kind of access and then by the command (R25 to R39). -/

namespace Sys2Proof.Machine

/-- R25: the commands that can change each STATUS field that is no error record. -/
theorem writtenBy_unitFlags (c : Instr) (g g' : Regs) :
    ((writtenBy c g g').keyValid ≠ g.keyValid → c = .aesKeyCommit ∨ c = .aesKeyClear ∨ c = .softReset) ∧
    ((writtenBy c g g').escPending ≠ g.escPending → c = .unstuffByte ∨ c = .stuffClear ∨ c = .softReset) ∧
    ((writtenBy c g g').chkOk ≠ g.chkOk → c = .crcCheck ∨ c = .lrcCheck ∨ c = .softReset) := by
  cases c <;> simp [writtenBy]

/-- R27, R30, R31, R35, R37, R39: the commands that can change each unit's state and results. -/
theorem writtenBy_unitRegisters (c : Instr) (g g' : Regs) (hreset : c ≠ .softReset) :
    ((writtenBy c g g').crcS ≠ g.crcS → c = .crcInit ∨ c = .crcUpdate) ∧
    ((writtenBy c g g').lrcS ≠ g.lrcS → c = .lrcInit ∨ c = .lrcUpdate) ∧
    ((writtenBy c g g').sout0 ≠ g.sout0 ∨ (writtenBy c g g').sout1 ≠ g.sout1 ∨
      (writtenBy c g g').soutCnt ≠ g.soutCnt → c = .stuffClear ∨ c = .stuffByte ∨ c = .unstuffByte) ∧
    ((writtenBy c g g').bfRes ≠ g.bfRes →
      c = .bfExtract ∨ c = .bfFill ∨ c = .bfPackFlags ∨ c = .bfUnpackFlags) ∧
    ((writtenBy c g g').key ≠ g.key → c = .aesKeyClear) ∧
    ((writtenBy c g g').dout ≠ g.dout → c = .aesEncrypt ∨ c = .aesDecrypt ∨ c = .aesKeyClear) := by
  cases c with
  | softReset => exact absurd rfl hreset
  | _ => simp [writtenBy]

/-- The operand registers (R26, R29, R33, R34, R36, R38) are the same in both. -/
def sameOperands (g g' : Regs) : Prop :=
  g'.opnd = g.opnd ∧ g'.crcExp0 = g.crcExp0 ∧ g'.crcExp1 = g.crcExp1 ∧
  g'.bfA = g.bfA ∧ g'.bfB = g.bfB ∧ g'.bfW = g.bfW ∧ g'.bfS = g.bfS ∧ g'.mask = g.mask ∧ g'.din = g.din

theorem sameOperands_refl (g : Regs) : sameOperands g g := ⟨rfl, rfl, rfl, rfl, rfl, rfl, rfl, rfl, rfl⟩

theorem sameOperands_commandEffect {c : Instr} (hreset : c ≠ .softReset) (g : Regs) :
    sameOperands g (commandEffect c g) := by
  rw [commandEffect_eq_writtenBy]
  cases c with
  | softReset => exact absurd rfl hreset
  | _ => exact sameOperands_refl g

theorem sameOperands_raise (e : ErrorName) (g : Regs) : sameOperands g (raise e g) := by
  rw [raise_frame]
  exact sameOperands_refl g

/-- AES_KEY_COMMIT alone sets KEY_VALID: the other commands that write it clear it. -/
theorem eq_aesKeyCommit_of_keyValid {c : Instr} {g : Regs} (hset : (commandEffect c g).keyValid = true)
    (hclear : g.keyValid = false) : c = .aesKeyCommit := by
  have hne : (commandEffect c g).keyValid ≠ g.keyValid := by simp [hset, hclear]
  rw [commandEffect_eq_writtenBy] at hne
  obtain rfl | rfl | rfl := (writtenBy_unitFlags c g _).1 hne
  · rfl
  · cases hset
  · cases hset

theorem storeReg_crcS_ne {r : RegName} {v : Byte} {g : Regs} (h : (storeReg r v g).crcS ≠ g.crcS) :
    r = .crcSLo ∨ r = .crcSHi := by
  cases r <;> simp [storeReg] at h ⊢

theorem storeReg_lrcS_ne {r : RegName} {v : Byte} {g : Regs} (h : (storeReg r v g).lrcS ≠ g.lrcS) :
    r = .lrcS := by
  cases r <;> simp [storeReg] at h ⊢

/-- Settles O48: of the accesses that are no command only a key write reaches a unit flag, and the commands are
those of `writtenBy_unitFlags`. -/
theorem unitFlagsHaveTheirWriters : Obligations.UnitFlagsHaveTheirWriters := by
  intro i s t h
  obtain hsame | ⟨f, heff, ht⟩ := exec_regs h
  · simp [hsame]
  rw [ht]
  cases heff with
  | command c run =>
    obtain ⟨hkey, hesc, hchk⟩ := writtenBy_unitFlags c s.regs (commandEffect c s.regs)
    rw [← commandEffect_eq_writtenBy] at hkey hesc hchk
    refine ⟨fun hne => ?_, fun ⟨hset, hclear⟩ => ?_, fun hne => ?_, fun hne => ?_⟩
    · obtain rfl | rfl | rfl := hkey hne <;> simp [run]
    · exact eq_aesKeyCommit_of_keyValid hset hclear ▸ run
    · obtain rfl | rfl | rfl := hesc hne <;> simp [run]
    · obtain rfl | rfl | rfl := hchk hne <;> simp [run]
  | keyWrite a v k write atKey =>
    exact ⟨fun _ => .inr (.inr (.inr ⟨a, v, write, keyAddr_range atKey⟩)), by simp, by simp [storeKey],
      by simp [storeKey]⟩
  | reservedCommand | refusedWrite =>
    rw [raise_frame]
    simp
  | store =>
    rw [storeReg_frame]
    simp

/-- Settles O49: no command but SOFT_RESET has an operand register among the fields it may write. -/
theorem commandsNeverWriteOperandRegisters : Obligations.CommandsNeverWriteOperandRegisters := by
  intro i s t h hcmd hreset
  obtain hsame | ⟨f, heff, ht⟩ := exec_regs h
  · rw [hsame]
    exact sameOperands_refl _
  rw [ht]
  cases heff with
  | command c run => exact sameOperands_commandEffect (fun hc => hreset (hc ▸ run)) _
  | keyWrite => exact sameOperands_refl _
  | reservedCommand | refusedWrite => exact sameOperands_raise _ _
  | store a v write isRw =>
    obtain rfl := hcmd a v write
    exact absurd isRw (by decide)

/-- Settles O50: the commands are those of `writtenBy_unitRegisters`, a key write changes the key alone, and a
store changes CRC_S and LRC_S at their own addresses. -/
theorem unitRegistersHaveTheirWriters : Obligations.UnitRegistersHaveTheirWriters := by
  intro i s t h hreset
  obtain hsame | ⟨f, heff, ht⟩ := exec_regs h
  · simp [hsame]
  rw [ht]
  cases heff with
  | command c run =>
    obtain ⟨hcrc, hlrc, hsout, hres, hkey, hdout⟩ := writtenBy_unitRegisters c s.regs (commandEffect c s.regs)
      (fun hc => hreset (hc ▸ run))
    rw [← commandEffect_eq_writtenBy] at hcrc hlrc hsout hres hkey hdout
    refine ⟨fun hne => ?_, fun hne => ?_, fun hne => ?_, fun hne => ?_, fun hne => ?_, fun hne => ?_⟩
    · obtain rfl | rfl := hcrc hne <;> simp [run]
    · obtain rfl | rfl := hlrc hne <;> simp [run]
    · obtain rfl | rfl | rfl := hsout hne <;> simp [run]
    · obtain rfl | rfl | rfl | rfl := hres hne <;> simp [run]
    · obtain rfl := hkey hne
      exact .inl run
    · obtain rfl | rfl | rfl := hdout hne <;> simp [run]
  | keyWrite a v k write atKey =>
    exact ⟨by simp [storeKey], by simp [storeKey], by simp [storeKey], by simp [storeKey],
      fun _ => .inr ⟨a, v, write, keyAddr_range atKey⟩, by simp [storeKey]⟩
  | reservedCommand | refusedWrite =>
    rw [raise_frame]
    simp
  | store a v write =>
    have hcrc (hne : (storeReg (regAt a) v s.regs).crcS ≠ s.regs.crcS) :
        ∃ a v, i = .wr a v ∧ (a = 0x04 ∨ a = 0x05) :=
      ⟨a, v, write, (storeReg_crcS_ne hne).imp (eq_of_regAt rfl) (eq_of_regAt rfl)⟩
    have hlrc (hne : (storeReg (regAt a) v s.regs).lrcS ≠ s.regs.lrcS) : ∃ v, i = .wr 0x0A v :=
      ⟨v, eq_of_regAt (a := a) rfl (storeReg_lrcS_ne hne) ▸ write⟩
    refine ⟨fun hne => .inr (.inr (hcrc hne)), fun hne => .inr (.inr (hlrc hne)), ?_⟩
    rw [storeReg_frame]
    simp

end Sys2Proof.Machine

/-! The key is seen only through the cipher (R37, R70): every other effect commutes with a change of the key. -/

namespace Sys2Proof.Machine

/-- The registers with another key. -/
def Regs.setKey (k : Block) (g : Regs) : Regs := { g with key := k }

@[simp] theorem Regs.setKey_setKey (k k' : Block) (g : Regs) : (g.setKey k).setKey k' = g.setKey k' := rfl

@[simp] theorem State.withKey_regs (k : Block) (s : State) : (s.withKey k).regs = s.regs.setKey k := rfl

/-- `g'` differs from `g` at most in the key. -/
def sameButKey (g g' : Regs) : Prop := ∃ k, g' = g.setKey k

theorem memRead_setKey (a : Addr) (k : Block) (g : Regs) : memRead a (g.setKey k) = memRead a g := by
  unfold memRead
  cases regAt a <;> rfl

theorem ite_setKey {p : Prop} [Decidable p] {k : Block} {a a' b b' : Regs} (ha : a' = a.setKey k)
    (hb : b' = b.setKey k) : (if p then a' else b') = (if p then a else b).setKey k := by
  split
  · exact ha
  · exact hb

theorem raise_setKey (e : ErrorName) (k : Block) (g : Regs) : raise e (g.setKey k) = (raise e g).setKey k :=
  ite_setKey rfl rfl

theorem recordCheck_setKey (ok : Bool) (k : Block) (g : Regs) :
    recordCheck ok (g.setKey k) = (recordCheck ok g).setKey k :=
  ite_setKey rfl (raise_setKey .checksum k { g with chkOk := false })

theorem setSout_setKey (out : List Byte) (k : Block) (g : Regs) :
    setSout (g.setKey k) out = (setSout g out).setKey k :=
  match out with
  | [] | [_] | _ :: _ :: _ => rfl

theorem unstuffByteEffect_setKey (k : Block) (g : Regs) :
    unstuffByteEffect (g.setKey k) = (unstuffByteEffect g).setKey k :=
  have format := raise_setKey .format k g
  ite_setKey (ite_setKey rfl (ite_setKey format rfl)) (ite_setKey rfl format)

/-- The commands that write the key write zero; the others keep it and, but for the two ciphers, do not read it. -/
theorem commandEffect_sameButKey {c : Instr} (henc : c ≠ .aesEncrypt) (hdec : c ≠ .aesDecrypt) (k : Block)
    (g : Regs) : sameButKey (commandEffect c g) (commandEffect c (g.setKey k)) := by
  cases c with
  | aesEncrypt => exact absurd rfl henc
  | aesDecrypt => exact absurd rfl hdec
  | softReset | aesKeyClear => exact ⟨Vector.replicate 16 0x00, rfl⟩
  | crcCheck | lrcCheck => exact ⟨k, recordCheck_setKey _ k g⟩
  | stuffByte => exact ⟨k, setSout_setKey _ k g⟩
  | unstuffByte => exact ⟨k, unstuffByteEffect_setKey k g⟩
  | unstuffEnd => exact ⟨k, ite_setKey (raise_setKey .format k g) rfl⟩
  | bfExtract => exact ⟨k, ite_setKey rfl (raise_setKey .field k g)⟩
  | bfFill =>
    have field := raise_setKey .field k g
    exact ⟨k, ite_setKey (ite_setKey field rfl) field⟩
  | rd | wr => exact ⟨k, raise_setKey .illegalCmd k g⟩
  | _ => exact ⟨k, rfl⟩

theorem storeReg_setKey (r : RegName) (v : Byte) (k : Block) (g : Regs) :
    storeReg r v (g.setKey k) = (storeReg r v g).setKey k := by
  cases r <;> rfl

theorem RegsEffect.sameButKey {i : Instr} {f : Regs → Regs} (h : RegsEffect i f)
    (henc : ¬runsCommand i .aesEncrypt) (hdec : ¬runsCommand i .aesDecrypt) (k : Block) (g : Regs) :
    sameButKey (f g) (f (g.setKey k)) := by
  cases h with
  | command c run =>
    exact commandEffect_sameButKey (fun hc => henc (hc ▸ run)) (fun hc => hdec (hc ▸ run)) k g
  | reservedCommand => exact ⟨k, raise_setKey .illegalCmd k g⟩
  | keyWrite a v j => exact ⟨k.set j v, rfl⟩
  | store a v => exact ⟨k, storeReg_setKey _ v k g⟩
  | refusedWrite => exact ⟨k, raise_setKey .illegalAccess k g⟩

/-- States whose registers differ at most in the key are equal for the host, and equal once given one key. -/
theorem indistinguishable_of_sameButKey {t u : State} (hhost : u.host = t.host) (hregs : sameButKey t.regs u.regs) :
    u.host = t.host ∧ (∀ a, memRead a u.regs = memRead a t.regs) ∧ ∀ k', u.withKey k' = t.withKey k' := by
  obtain ⟨k, hk⟩ := hregs
  refine ⟨hhost, fun a => ?_, fun k' => ?_⟩
  · rw [hk, memRead_setKey]
  · calc u.withKey k' = ⟨u.regs.setKey k', u.host⟩ := rfl
      _ = ⟨t.regs.setKey k', t.host⟩ := by rw [hhost, hk, Regs.setKey_setKey]
      _ = t.withKey k' := rfl

/-- Settles O51: a read returns no key byte, and every effect but the two ciphers' gives registers that differ at
most in the key. -/
theorem keyIsReadOnlyThroughTheCipher : Obligations.KeyIsReadOnlyThroughTheCipher := by
  intro i s k henc hdec
  obtain ⟨a, rfl⟩ | ⟨f, heff, hexec⟩ := exec_cases i
  · refine ⟨_, _, exec_rd a s, exec_rd a (s.withKey k), indistinguishable_of_sameButKey ?_ ⟨k, rfl⟩⟩
    rw [State.withKey_regs, memRead_setKey]
    rfl
  · exact ⟨_, _, hexec s, hexec (s.withKey k),
      indistinguishable_of_sameButKey rfl (heff.sameButKey henc hdec k s.regs)⟩

end Sys2Proof.Machine

/-! Reads (R67, R104): the byte a read returns depends on the registers alone, which no read changes. -/

namespace Sys2Proof.Machine

/-- A read after a byte has reached the host returns what it would have returned before. -/
theorem exec_rd_hostReceives (a : Addr) (b : Byte) (s : State) :
    exec (.rd a) (s.hostReceives b) = .next ((s.hostReceives b).hostReceives (memRead a s.regs)) := by
  rw [exec_rd, State.hostReceives_regs]

/-- Settles O9: the second read finds the registers the first one found. -/
theorem readsAreIdempotent : Obligations.ReadsAreIdempotent := by
  intro a s
  exact ⟨_, _, memRead a s.regs, exec_rd a s, exec_rd_hostReceives a _ s, by simp, by simp, by simp⟩

end Sys2Proof.Machine

/-! The step of a pending access (R60). -/

namespace Sys2Proof.Machine

/-- A pending word that decodes is taken, and its instruction runs in the state it is taken in. -/
theorem step_of_decode_ok {s : State} {w : HostWord} {es : List Event} {i : Instr}
    (hp : s.host.pending = .access w :: es) (hd : decode w = .ok i) : step s = exec i s.takeAccess := by
  simp [step, State.nextEvent, hp, hd]

/-- Taking an access leaves the events behind it pending and moves the script reader one word on. -/
theorem State.takeAccess_of_pending {s : State} {e : Event} {es : List Event} (hp : s.host.pending = e :: es) :
    s.takeAccess = { s with host := { s.host with pending := es, position := s.host.position + 1 } } := by
  simp [State.takeAccess, hp]

/-- Settles O54: the step runs the instruction after the access has been taken. -/
theorem stepRunsTheDecodedInstruction : Obligations.StepRunsTheDecodedInstruction := by
  intro s w es i hp hd
  rw [step_of_decode_ok hp hd, State.takeAccess_of_pending hp]

end Sys2Proof.Machine

/-! The decoder, said once for each encoded form (R83, R84, R87, R88). -/

namespace Sys2Proof

theorem decode_cmd8_of_some {c : Byte} {i : Instr} (h : decodeCommand c = some i) : decode (.cmd8 c) = .ok i := by
  simp only [decode, h]

theorem decode_cmd8_of_none {c : Byte} (h : decodeCommand c = none) :
    decode (.cmd8 c) = .error (.reservedCommand c) := by
  simp only [decode, h]

/-- A transaction word is a write, or a read, or no access. -/
theorem decode_bus16_cases (w : Word16) :
    (busIsWrite w = true ∧ decode (.bus16 w) = .ok (.wr (busAddr w) (busData w))) ∨
    (busIsWrite w = false ∧ busData w = 0 ∧ decode (.bus16 w) = .ok (.rd (busAddr w))) ∨
    (busIsWrite w = false ∧ busData w ≠ 0 ∧ decode (.bus16 w) = .error (.notAProgramWord w)) := by
  cases hw : busIsWrite w with
  | true => exact .inl ⟨rfl, by simp [decode, hw]⟩
  | false =>
    by_cases hd : busData w = 0
    · exact .inr (.inl ⟨rfl, hd, by simp [decode, hw, hd]⟩)
    · exact .inr (.inr ⟨rfl, hd, by simp only [decode, hw, hd, Bool.false_eq_true, if_false]⟩)

/-- R88: the legal words, by their fields W and DATA. -/
theorem isProgramWord_bus16_iff (w : Word16) :
    HostWord.isProgramWord (.bus16 w) = true ↔ busIsWrite w = true ∨ busData w = 0 := by
  simp [HostWord.isProgramWord, busIsWrite, busData]

/-- A transaction word decodes exactly when it is a program word. -/
theorem decode_bus16_ok_iff (w : Word16) :
    (∃ i, decode (.bus16 w) = .ok i) ↔ HostWord.isProgramWord (.bus16 w) = true := by
  rw [isProgramWord_bus16_iff]
  obtain ⟨hw, hd⟩ | ⟨_, hdata, hd⟩ | ⟨hw, hdata, hd⟩ := decode_bus16_cases w
  · exact ⟨fun _ => .inl hw, fun _ => ⟨_, hd⟩⟩
  · exact ⟨fun _ => .inr hdata, fun _ => ⟨_, hd⟩⟩
  · refine ⟨fun ⟨i, hi⟩ => ?_, ?_⟩
    · simp [hd] at hi
    · rintro (hwrite | hzero)
      · simp [hw] at hwrite
      · exact absurd hzero hdata

/-- A transaction word that is no program word is named by the decoder. -/
theorem decode_bus16_of_not_isProgramWord {w : Word16} (h : HostWord.isProgramWord (.bus16 w) = false) :
    decode (.bus16 w) = .error (.notAProgramWord w) := by
  have hfields : ¬(busIsWrite w = true ∨ busData w = 0) := by
    rw [← isProgramWord_bus16_iff, h]
    decide
  obtain ⟨hw, _⟩ | ⟨_, hdata, _⟩ | ⟨_, _, hd⟩ := decode_bus16_cases w
  · exact absurd (.inl hw) hfields
  · exact absurd (.inr hdata) hfields
  · exact hd

theorem decode_busWord_write (a : Addr) (d : Byte) : decode (.bus16 (busWord true a d)) = .ok (.wr a d) := by
  simp [decode]

theorem decode_busWord_read (a : Addr) : decode (.bus16 (busWord false a 0x00)) = .ok (.rd a) := by
  simp [decode]

/-- A transaction word is made of its three fields and nothing else (R87). -/
theorem busWord_of_fields (w : Word16) : busWord (busIsWrite w) (busAddr w) (busData w) = w := by
  apply BitVec.eq_of_getLsbD_eq
  intro i hi
  simp only [busWord, busIsWrite, busAddr, busData, BitVec.getLsbD_append, BitVec.getLsbD_extractLsb',
    BitVec.getLsbD_ofBool]
  obtain hdata | haddr | rfl : i < 8 ∨ (8 ≤ i ∧ i < 15) ∨ i = 15 := by omega
  · simp [hdata]
  · obtain ⟨hlo, hhi⟩ := haddr
    simp [Nat.not_lt.mpr hlo, show i - 8 < 7 by omega, Nat.add_sub_cancel' hlo]
  · simp

end Sys2Proof

/-! The opcode map (R83) and the reserved bytes (R84). -/

namespace Sys2Proof.Machine

/-- The byte of a row of R83 is the one its instruction is encoded as. -/
theorem encode_of_mem_opcodeMap : ∀ row ∈ opcodeMap, encode row.2 = .cmd8 row.1 := by decide

theorem encode_of_decodeCommand {c : Byte} {i : Instr} (h : decodeCommand c = some i) : encode i = .cmd8 c := by
  simp only [decodeCommand, Option.map_eq_some_iff] at h
  obtain ⟨row, hrow, rfl⟩ := h
  have hbyte : row.1 = c := by simpa using List.find?_some hrow
  rw [encode_of_mem_opcodeMap row (List.mem_of_find?_eq_some hrow), hbyte]

/-- R84: the bytes of no row of R83 are the listed ones. -/
theorem decodeCommand_eq_none_iff : ∀ c : Byte, decodeCommand c = none ↔ isReservedCommand c := by
  unfold isReservedCommand
  decide

/-- The host accesses are read back field by field; the word of a command is one byte, looked up in R83's table. -/
theorem decode_encode (i : Instr) : decode (encode i) = .ok i := by
  cases i with
  | rd a => exact decode_busWord_read a
  | wr a d => exact decode_busWord_write a d
  | _ => rfl

/-- Settles O57. -/
theorem decodeOfEncodeIsTheInstruction : Obligations.DecodeOfEncodeIsTheInstruction := decode_encode

/-- A command byte is its row's byte; a transaction word is rebuilt from the fields that were read. -/
theorem encode_of_decode {w : HostWord} {i : Instr} (h : decode w = .ok i) : encode i = w := by
  cases w with
  | cmd8 c =>
    cases hc : decodeCommand c with
    | none => simp [decode_cmd8_of_none hc] at h
    | some j =>
      obtain rfl : j = i := by simpa [decode_cmd8_of_some hc] using h
      exact encode_of_decodeCommand hc
  | bus16 w =>
    have hw := busWord_of_fields w
    obtain ⟨hwrite, hd⟩ | ⟨hwrite, hdata, hd⟩ | ⟨_, _, hd⟩ := decode_bus16_cases w
    · obtain rfl : .wr (busAddr w) (busData w) = i := by simpa [hd] using h
      rw [hwrite] at hw
      exact congrArg HostWord.bus16 hw
    · obtain rfl : .rd (busAddr w) = i := by simpa [hd] using h
      rw [hwrite, hdata] at hw
      exact congrArg HostWord.bus16 hw
    · simp [hd] at h

/-- Settles O58: a decoded word is its instruction's encoding, and `decode` refuses only what R88 excludes. -/
theorem encodeOfDecodeIsTheWord : Obligations.EncodeOfDecodeIsTheWord :=
  ⟨fun _ _ => encode_of_decode, decode_bus16_ok_iff⟩

/-- Settles O59: each sample word is evaluated. -/
theorem sampleWordsDecodeAsTheSpecSays : Obligations.SampleWordsDecodeAsTheSpecSays := by
  unfold Obligations.SampleWordsDecodeAsTheSpecSays
  decide

end Sys2Proof.Machine

/-! An access that raises an error and does nothing else (R10, R220), and the reserved command bytes (R84). -/

namespace Sys2Proof.Machine

/-- Only STATUS shows the error record (R25). -/
theorem readReg_raise (e : ErrorName) (g : Regs) {r : RegName} (h : r ≠ .status) :
    readReg r (raise e g) = readReg r g := by
  rw [raise_frame]
  cases r with
  | status => exact absurd rfl h
  | _ => rfl

theorem memRead_raise (e : ErrorName) (g : Regs) {a : Addr} (h : a ≠ 0x01) : memRead a (raise e g) = memRead a g :=
  readReg_raise e g fun hr => h (eq_of_regAt rfl hr)

theorem recordsError_raise (e : ErrorName) (s : State) : recordsError e s (s.onRegs (raise e)) := by
  obtain ⟨hzero, hraise⟩ | ⟨hpending, hraise⟩ := raise_cases e s.regs
  · refine ⟨fun _ => ?_, fun h => absurd hzero h⟩
    simp [hraise]
  · refine ⟨fun h => absurd h hpending, fun _ => ?_⟩
    simp [hraise]

theorem keepsUnitFlags_raise (e : ErrorName) (s : State) : keepsUnitFlags s (s.onRegs (raise e)) := by
  rw [keepsUnitFlags, State.onRegs_regs, raise_frame]
  exact ⟨rfl, rfl, rfl⟩

theorem onlyChanges_raise (e : ErrorName) (s : State) : onlyChanges [0x01] s (s.onRegs (raise e)) := by
  refine ⟨fun a ha => memRead_raise e s.regs (by simpa using ha), ?_, rfl⟩
  rw [State.onRegs_regs, raise_frame]

theorem raisesOnly_raise (e : ErrorName) (s : State) : raisesOnly e s (s.onRegs (raise e)) :=
  ⟨recordsError_raise e s, keepsUnitFlags_raise e s, onlyChanges_raise e s⟩

/-- A reserved byte written to CMD raises ILLEGAL_CMD (R103). -/
theorem exec_wr_cmd_of_none {c : Byte} (h : decodeCommand c = none) (s : State) :
    exec (.wr 0x00 c) s = .next (s.onRegs (raise .illegalCmd)) := by
  rw [exec_wr, memWrite_cmd, runCommand_of_none h]

/-- A command byte written to CMD runs its command (R103). -/
theorem exec_wr_cmd_of_some {c : Byte} {i : Instr} (h : decodeCommand c = some i) (s : State) :
    exec (.wr 0x00 c) s = exec i s := by
  obtain ⟨noRead, noWrite⟩ := decodeCommand_isCommand h
  rw [exec_wr, memWrite_cmd, runCommand_of_some h, exec_command i s noRead noWrite]

/-- Settles O7: the write runs nothing, and `raise` writes the error record alone. -/
theorem reservedCommandBytesRaise : Obligations.ReservedCommandBytesRaise :=
  ⟨decodeCommand_eq_none_iff, fun c s hc =>
    ⟨_, exec_wr_cmd_of_none ((decodeCommand_eq_none_iff c).mpr hc) s, raisesOnly_raise _ s⟩⟩

end Sys2Proof.Machine

/-! The step, by what is pending (R60, R88, R103). -/

namespace Sys2Proof.Machine

theorem step_of_idle {s : State} (hp : s.host.pending = []) : step s = .next s := by
  simp [step, State.nextEvent, hp]

theorem step_of_platformReset {s : State} {es : List Event} (hp : s.host.pending = .platformReset :: es) :
    step s = .next s.takeReset := by
  simp [step, State.nextEvent, hp]

/-- A word that is no access is refused by its position (R88). -/
theorem step_of_not_isProgramWord {s : State} {w : Word16} {es : List Event}
    (hp : s.host.pending = .access (.bus16 w) :: es) (hw : HostWord.isProgramWord (.bus16 w) = false) :
    step s = .refused (.notAProgramWord s.host.position w) := by
  simp [step, State.nextEvent, hp, decode_bus16_of_not_isProgramWord hw]

/-- A pending command byte, a reserved one too, is the write of that byte to CMD (R80, R103). -/
theorem step_of_cmd8 {s : State} {c : Byte} {es : List Event} (hp : s.host.pending = .access (.cmd8 c) :: es) :
    step s = exec (.wr 0x00 c) s.takeAccess := by
  cases hc : decodeCommand c with
  | none => simp [step, State.nextEvent, hp, decode_cmd8_of_none hc]
  | some i => rw [step_of_decode_ok hp (decode_cmd8_of_some hc), exec_wr_cmd_of_some hc]

/-- A program word is an access: it is taken, and some instruction runs. -/
theorem step_of_isProgramWord {s : State} {w : HostWord} {es : List Event} (hp : s.host.pending = .access w :: es)
    (hw : w.isProgramWord = true) : ∃ i, step s = exec i s.takeAccess := by
  cases w with
  | cmd8 c => exact ⟨_, step_of_cmd8 hp⟩
  | bus16 w =>
    obtain ⟨i, hd⟩ := (decode_bus16_ok_iff w).mpr hw
    exact ⟨i, step_of_decode_ok hp hd⟩

/-- Every access answers a next state and leaves the host's queue alone. -/
theorem exec_next_pending (i : Instr) (s : State) : ∃ t, exec i s = .next t ∧ t.host.pending = s.host.pending := by
  obtain ⟨a, rfl⟩ | ⟨f, _, hexec⟩ := exec_cases i
  · exact ⟨_, exec_rd a s, State.hostReceives_pending _ s⟩
  · exact ⟨_, hexec s, rfl⟩

/-- Settles O55: an event that is not refused is a reset or an access, and both only take it from the queue. -/
theorem stepStopsOnlyOnAWordThatIsNoAccess : Obligations.StepStopsOnlyOnAWordThatIsNoAccess := by
  refine fun s => ⟨step_of_idle, fun w es => step_of_not_isProgramWord, fun e es hp hw => ?_⟩
  cases e with
  | platformReset => exact ⟨_, step_of_platformReset hp, by simp [hp]⟩
  | access w =>
    obtain ⟨i, hstep⟩ := step_of_isProgramWord hp (hw w rfl)
    obtain ⟨t, hexec, hpending⟩ := exec_next_pending i s.takeAccess
    exact ⟨t, hstep.trans hexec, by simp [hpending, hp]⟩

/-- The write word of a command byte (R88). -/
theorem cmdWord_eq_append (c : Byte) : cmdWord c = 0x80#8 ++ c := rfl

theorem decode_cmdWord (c : Byte) : decode (.bus16 (cmdWord c)) = .ok (.wr 0x00 c) := decode_busWord_write 0x00 c

/-- Settles O56: both are the write to CMD, and once it is taken the two queues are the same. -/
theorem commandByteAndItsWriteWordAgree : Obligations.CommandByteAndItsWriteWordAgree := by
  rintro c s s' es hp rfl
  obtain ⟨t, hexec⟩ := exec_next (.wr 0x00 c) s.takeAccess
  refine ⟨t, (step_of_cmd8 hp).trans hexec, ?_⟩
  rw [step_of_decode_ok rfl (cmdWord_eq_append c ▸ decode_cmdWord c), ← hexec, State.takeAccess_of_pending hp,
    State.takeAccess_of_pending rfl]

end Sys2Proof.Machine

/-! Scripts assemble to program words (R88 to R90). -/

namespace Sys2Proof.Machine

theorem isProgramWord_rdWord (a : Addr) : HostWord.isProgramWord (.bus16 (rdWord a)) = true :=
  Laws.EncodesProgramWord.rd a

theorem isProgramWord_wrWord (a : Addr) (v : Byte) : HostWord.isProgramWord (.bus16 (wrWord a v)) = true :=
  Laws.EncodesProgramWord.wr a v

theorem isProgramWord_cmdWord (c : Byte) : HostWord.isProgramWord (.bus16 (cmdWord c)) = true :=
  isProgramWord_wrWord 0x00 c

theorem isProgramWord_of_mem_writeBytes {bs : List Byte} {base : Nat} {w : Word16} (h : w ∈ writeBytes base bs) :
    HostWord.isProgramWord (.bus16 w) = true := by
  induction bs generalizing base with
  | nil => cases h
  | cons b bs ih =>
    obtain rfl | htail := List.mem_cons.mp h
    · exact isProgramWord_wrWord _ b
    · exact ih htail

/-- Every word of a line is a read word, a write word, or a command's write word (R89, R90). -/
theorem isProgramWord_of_mem_words {op : ScriptOp} {w : Word16} (h : w ∈ op.words) :
    HostWord.isProgramWord (.bus16 w) = true := by
  cases op with
  | rd a =>
    obtain rfl := List.mem_singleton.mp h
    exact isProgramWord_rdWord a
  | setKey k =>
    obtain hbyte | hcommit := List.mem_append.mp h
    · exact isProgramWord_of_mem_writeBytes hbyte
    · obtain rfl := List.mem_singleton.mp hcommit
      exact isProgramWord_cmdWord _
  | setBlock bytes | setMasks bytes => exact isProgramWord_of_mem_writeBytes h
  | _ =>
    revert w
    simp [ScriptOp.words, isProgramWord_wrWord, isProgramWord_cmdWord]

/-- A script with a first line assembles when that line is read and the rest assembles, and its words are those of
the line's operation, if it has one, and then the rest's. -/
theorem assemble?_cons {l : List Char} {ls : List (List Char)} {ws : List Word16} (h : assemble? (l :: ls) = some ws) :
    ∃ line rest, readLine? l = some line ∧ assemble? ls = some rest ∧
      ws = (line.op?.map ScriptOp.words).getD [] ++ rest := by
  cases hline : readLine? l with
  | none => simp [assemble?, hline] at h
  | some line =>
    cases hrest : assemble? ls with
    | none => simp [assemble?, hline, hrest] at h
    | some rest =>
      refine ⟨line, rest, rfl, rfl, ?_⟩
      cases hop : line.op? <;> simpa [assemble?, hline, hrest, hop] using h.symm

theorem isProgramWord_of_mem_assemble? {lines : List (List Char)} {ws : List Word16} (h : assemble? lines = some ws)
    {w : Word16} (hw : w ∈ ws) : HostWord.isProgramWord (.bus16 w) = true := by
  induction lines generalizing ws with
  | nil =>
    cases h
    cases hw
  | cons l ls ih =>
    obtain ⟨line, rest, _, hrest, rfl⟩ := assemble?_cons h
    obtain hmem | hmem := List.mem_append.mp hw
    · cases hop : line.op? with
      | none => simp [hop] at hmem
      | some op => exact isProgramWord_of_mem_words (op := op) (by simpa [hop] using hmem)
    · exact ih hrest hmem

/-- A script reader refuses no word of a sequence exactly when each is a program word (R87, R88). -/
theorem firstRefused_eq_none_iff (p : List HostWord) : firstRefused p = none ↔ ∀ w ∈ p, w.isProgramWord = true := by
  induction p with
  | nil => simp [firstRefused]
  | cons w ws ih =>
    cases hw : w.isProgramWord with
    | true => simp [firstRefused, hw, ih]
    | false => simp [firstRefused, hw]

/-- Settles O60: the assembler emits program words line by line. -/
theorem assembledScriptsAreNeverRefused : Obligations.AssembledScriptsAreNeverRefused := by
  intro lines p hp
  obtain ⟨ws, hws, rfl⟩ := Option.map_eq_some_iff.mp hp
  rw [firstRefused_eq_none_iff, List.forall_mem_map]
  exact fun w hw => isProgramWord_of_mem_assemble? hws hw

end Sys2Proof.Machine

/-! The control unit's own commands (R100 to R102), and a change of the error record alone (R25). -/

namespace Sys2Proof.Machine

/-- The registers with another error record. -/
def Regs.setErrors (e : BitVec 3) (o : Bool) (g : Regs) : Regs := { g with err := e, errOvf := o }

theorem State.withErrors_regs (e : BitVec 3) (o : Bool) (s : State) :
    (s.withErrors e o).regs = s.regs.setErrors e o := rfl

theorem acknowledge_eq_setErrors (g : Regs) : g.acknowledge = g.setErrors 0 false := rfl

@[simp] theorem acknowledge_setErrors (e : BitVec 3) (o : Bool) (g : Regs) :
    (g.setErrors e o).acknowledge = g.acknowledge := rfl

/-- Only STATUS shows the error record (R25). -/
theorem readReg_setErrors (e : BitVec 3) (o : Bool) (g : Regs) {r : RegName} (h : r ≠ .status) :
    readReg r (g.setErrors e o) = readReg r g := by
  cases r with
  | status => exact absurd rfl h
  | _ => rfl

theorem memRead_setErrors (e : BitVec 3) (o : Bool) (g : Regs) {a : Addr} (h : a ≠ 0x01) :
    memRead a (g.setErrors e o) = memRead a g :=
  readReg_setErrors e o g fun hr => h (eq_of_regAt rfl hr)

theorem onlyChanges_acknowledge (s : State) : onlyChanges [0x01] s (s.onRegs Regs.acknowledge) := by
  refine ⟨fun a ha => ?_, rfl, rfl⟩
  rw [State.onRegs_regs, acknowledge_eq_setErrors]
  exact memRead_setErrors 0 false s.regs (by simpa using ha)

/-- Settles O3: the registers after SOFT_RESET are those of `Regs.reset`, whose values are known. -/
theorem softResetRestoresTheResetState : Obligations.SoftResetRestoresTheResetState :=
  ⟨rfl, fun _ => ⟨_, rfl, rfl, memRead_reset (a := 0x01) (by decide), rfl, rfl, by simp [softResetEffect, Regs.reset],
    fun _ h => memRead_reset h⟩⟩

/-- Settles O4. -/
theorem nopChangesNothing : Obligations.NopChangesNothing := ⟨rfl, fun _ => rfl⟩

/-- Settles O5: CLR_ERR acknowledges, and that writes the error record alone. -/
theorem clrErrClearsOnlyTheErrorRecord : Obligations.ClrErrClearsOnlyTheErrorRecord :=
  ⟨rfl, fun s => ⟨_, rfl, rfl, rfl, ⟨rfl, rfl, rfl⟩, onlyChanges_acknowledge s⟩⟩

end Sys2Proof.Machine

/-! Writes to CMD (R103) and refused writes (R106). -/

namespace Sys2Proof.Machine

/-- CMD is a port and holds nothing (R24). -/
theorem memRead_cmd (g : Regs) : memRead 0x00 g = 0x00 := rfl

/-- Settles O6: a byte that decodes runs its command in the same state, and a reserved one raises ILLEGAL_CMD. -/
theorem commandWriteRunsTheCommand : Obligations.CommandWriteRunsTheCommand := by
  intro c s
  cases hc : decodeCommand c with
  | none => exact ⟨_, exec_wr_cmd_of_none hc s, memRead_cmd _, nofun, fun _ => raisesOnly_raise _ s⟩
  | some i =>
    obtain ⟨t, hexec⟩ := exec_next i s
    refine ⟨t, (exec_wr_cmd_of_some hc s).trans hexec, memRead_cmd _, fun j hj => ?_, nofun⟩
    cases hj
    exact hexec

theorem access_regAt_of_isReservedAddr {a : Addr} (h : isReservedAddr a) : (regAt a).access = .none := by
  rw [(regAt_eq_reserved_iff a).mpr h, RegName.access]

/-- Settles O11: such a write is `raise`, which writes the error record alone. -/
theorem refusedWriteRaisesIllegalAccess : Obligations.RefusedWriteRaisesIllegalAccess := by
  intro a v s h
  have refused := h.imp (access_regAt_eq_ro_iff a).mpr access_regAt_of_isReservedAddr
  refine ⟨_, exec_wr a v s, ?_⟩
  rw [memWrite_refused refused]
  exact raisesOnly_raise _ s

end Sys2Proof.Machine

/-! What a read returns (R104), by the register at the address. -/

namespace Sys2Proof.Machine

/-- The fields of STATUS are read at the bits R25 gives them. -/
theorem status_fields (g : Regs) :
    g.status.extractLsb' 0 3 = g.err ∧ g.status.getLsbD 3 = g.errOvf ∧ g.status.getLsbD 4 = g.keyValid ∧
    g.status.getLsbD 5 = g.escPending ∧ g.status.getLsbD 6 = g.chkOk ∧ g.status.getLsbD 7 = false := by
  refine ⟨BitVec.extractLsb'_append_eq_right .., ?_⟩
  simp only [Regs.status, BitVec.getLsbD_append]
  simp

/-- SOUT_CNT is read in the two low bits; the others read 0 (R31). -/
theorem soutCnt_fields (n : BitVec 2) :
    (n.setWidth 8).extractLsb' 0 2 = n ∧ (n.setWidth 8).extractLsb' 2 6 = 0 := by
  revert n
  decide

theorem memRead_of_addr? {r : RegName} {a : Addr} (h : r.addr? = some a) (g : Regs) :
    memRead a g = readReg r g := by
  rw [memRead, regAt_of_addr? h]

/-- The read of an array register, at its distance from the array's base. -/
theorem memRead_of_toNat {r : RegName} {a : Addr} {n : Nat} (ha : a.toNat = n)
    (hr : r.addr? = some (BitVec.ofNat 7 n)) (g : Regs) : memRead a g = readReg r g := by
  apply memRead_of_addr?
  rw [hr, ← ha, BitVec.ofNat_toNat, BitVec.setWidth_eq]

theorem memRead_of_isReservedAddr {a : Addr} (h : isReservedAddr a) (g : Regs) : memRead a g = 0x00 := by
  rw [memRead, (regAt_eq_reserved_iff a).mpr h, readReg]

/-- Settles O8: the byte is that of the register at the address, clause by clause along the map. -/
theorem readReturnsTheRegisterAndChangesNothing : Obligations.ReadReturnsTheRegisterAndChangesNothing := by
  intro a s
  refine ⟨_, memRead a s.regs, exec_rd a s, rfl, rfl, rfl, rfl, ?cmd, ?status, ?opnd, ?crcSLo, ?crcSHi, ?crcOut0,
    ?crcOut1, ?crcExp0, ?crcExp1, ?lrcS, ?sout0, ?sout1, ?soutCnt, ?bfA, ?bfB, ?bfW, ?bfS, ?bfRes,
    fun i h => memRead_of_toNat (r := .mask i) h rfl s.regs, fun i h => memRead_of_toNat (r := .key i) h rfl s.regs,
    fun i h => memRead_of_toNat (r := .din i) h rfl s.regs, fun i h => memRead_of_toNat (r := .dout i) h rfl s.regs,
    fun h => memRead_of_isReservedAddr h s.regs⟩ <;> rintro rfl
  case status => exact status_fields s.regs
  case soutCnt => exact soutCnt_fields s.regs.soutCnt
  all_goals rfl

end Sys2Proof.Machine

/-! What a write stores (R105, R107), and which reads show it (R108). -/

namespace Sys2Proof.Machine

@[simp] theorem lowByte_joinBytes (hi lo : Byte) : lowByte (joinBytes hi lo) = lo :=
  BitVec.extractLsb'_append_eq_right ..

@[simp] theorem highByte_joinBytes (hi lo : Byte) : highByte (joinBytes hi lo) = hi :=
  BitVec.extractLsb'_append_eq_left ..

/-- The CRC_OUT views are taken byte by byte (R28). -/
theorem lowByte_crcRes (s : Word16) : lowByte (crcRes s) = lowByte s ^^^ lowByte Config.crcXorOut :=
  BitVec.extractLsb'_xor ..

theorem highByte_crcRes (s : Word16) : highByte (crcRes s) = highByte s ^^^ highByte Config.crcXorOut :=
  BitVec.extractLsb'_xor ..

/-- The register that shows what is stored in `r`, beside `r` itself: the CRC_OUT view of a half of CRC_S (R28). -/
def RegName.view : RegName → RegName
  | .crcSLo => .crcOut0
  | .crcSHi => .crcOut1
  | r => r

/-- An RW register reads the byte stored in it (R105). -/
theorem readReg_storeReg_same {r : RegName} (h : r.access = .rw) (v : Byte) (g : Regs) :
    readReg r (storeReg r v g) = v := by
  cases r <;> simp [RegName.access, readReg, storeReg] at h ⊢

/-- A store into `r` is seen in `r` and its view alone (R105, R108). -/
theorem readReg_storeReg_of_ne {r r' : RegName} (hne : r' ≠ r) (hview : r' ≠ r.view) (v : Byte) (g : Regs) :
    readReg r' (storeReg r v g) = readReg r' g := by
  cases r with
  | crcSLo | crcSHi =>
    cases r' with
    | crcSLo | crcSHi | crcOut0 | crcOut1 =>
      simp [RegName.view, readReg, storeReg, lowByte_crcRes, highByte_crcRes] at hne hview ⊢
    | _ => rfl
  | mask i =>
    cases r' with
    | mask j => exact Vector.getElem_set_ne i.isLt j.isLt (by simpa [Fin.ext_iff, eq_comm] using hne)
    | _ => rfl
  | din i =>
    cases r' with
    | din j => exact Vector.getElem_set_ne i.isLt j.isLt (by simpa [Fin.ext_iff, eq_comm] using hne)
    | _ => rfl
  | opnd | crcExp0 | crcExp1 | lrcS | bfA | bfB | bfW | bfS =>
    cases r' with
    | opnd | crcExp0 | crcExp1 | lrcS | bfA | bfB | bfW | bfS => simp [readReg, storeReg] at hne ⊢
    | _ => rfl
  | _ => rfl

/-- Where the register `RegName.view` stands. -/
theorem addr?_view_regAt : ∀ a : Addr, isRwAddr a →
    (regAt a).view.addr? = some (if a = 0x04 then 0x06 else if a = 0x05 then 0x07 else a) := by
  unfold isRwAddr
  decide

theorem regAt_ne_reserved_of_isRwAddr {a : Addr} (h : isRwAddr a) : regAt a ≠ .reserved := by
  intro hr
  have isRw := (access_regAt_eq_rw_iff a).mpr h
  simp [hr, RegName.access] at isRw

theorem storeReg_key (r : RegName) (v : Byte) (g : Regs) : (storeReg r v g).key = g.key := by
  rw [storeReg_frame]

theorem onlyChanges_storeReg {a : Addr} (h : isRwAddr a) (v : Byte) (s : State) :
    onlyChanges [a, if a = 0x04 then 0x06 else if a = 0x05 then 0x07 else a] s
      (s.onRegs (storeReg (regAt a) v)) := by
  refine ⟨fun b hb => ?_, storeReg_key _ v s.regs, rfl⟩
  simp only [List.mem_cons, List.not_mem_nil, or_false, not_or] at hb
  obtain ⟨hne, hview⟩ := hb
  exact readReg_storeReg_of_ne (fun hr => hne (eq_of_regAt (addr?_regAt a (regAt_ne_reserved_of_isRwAddr h)) hr))
    (fun hr => hview (eq_of_regAt (addr?_view_regAt a h) hr)) v s.regs

/-- Settles O10: an RW address is stored to, and the store is seen there and in its view alone. -/
theorem writeStoresAnRwRegister : Obligations.WriteStoresAnRwRegister := by
  intro a v s h
  have isRw := (access_regAt_eq_rw_iff a).mpr h
  refine ⟨_, exec_wr a v s, ?_⟩
  rw [memWrite_rw isRw]
  exact ⟨readReg_storeReg_same isRw v s.regs, onlyChanges_storeReg h v s⟩

/-- No read shows the key, and KEY_VALID is read in STATUS alone (R25, R37). -/
theorem readReg_storeKey (i : Fin 16) (v : Byte) (g : Regs) {r : RegName} (h : r ≠ .status) :
    readReg r (storeKey i v g) = readReg r g := by
  cases r with
  | status => exact absurd rfl h
  | _ => rfl

theorem memRead_storeKey (i : Fin 16) (v : Byte) (g : Regs) {a : Addr} (h : a ≠ 0x01) :
    memRead a (storeKey i v g) = memRead a g :=
  readReg_storeKey i v g fun hr => h (eq_of_regAt rfl hr)

/-- Settles O12: the write is `storeKey`, which writes the key byte and KEY_VALID. -/
theorem keyWriteStoresAndInvalidates : Obligations.KeyWriteStoresAndInvalidates := by
  intro i v s
  refine ⟨_, exec_wr _ v s, ?_⟩
  rw [memWrite_key (regAt_of_addr? (r := .key i) rfl)]
  refine ⟨fun j => ?_, rfl, ⟨rfl, rfl⟩, rfl, rfl, fun a ha => memRead_storeKey i v s.regs ha, rfl⟩
  simp [Vector.getElem_set, Fin.ext_iff, eq_comm]

end Sys2Proof.Machine

/-! Recorded errors block nothing (R103, R229): every access treats the other registers as if none were recorded. -/

namespace Sys2Proof.Machine

theorem acknowledge_raise (e : ErrorName) (g : Regs) : (raise e g).acknowledge = g.acknowledge := by
  rw [raise_frame]
  rfl

theorem acknowledge_ite {p : Prop} [Decidable p] {a a' b b' : Regs} (ha : a'.acknowledge = a.acknowledge)
    (hb : b'.acknowledge = b.acknowledge) : (if p then a' else b').acknowledge = (if p then a else b).acknowledge := by
  split
  · exact ha
  · exact hb

/-- `f` writes the registers outside the error record without regard to it. -/
def ignoresErrors (f : Regs → Regs) : Prop :=
  ∀ e o g, (f (g.setErrors e o)).acknowledge = (f g).acknowledge

theorem ignoresErrors_raise (n : ErrorName) : ignoresErrors (raise n) := by
  intro e o g
  rw [acknowledge_raise, acknowledge_raise, acknowledge_setErrors]

theorem acknowledge_recordCheck_setErrors (ok : Bool) (e : BitVec 3) (o : Bool) (g : Regs) :
    (recordCheck ok (g.setErrors e o)).acknowledge = (recordCheck ok g).acknowledge :=
  acknowledge_ite rfl (ignoresErrors_raise .checksum e o { g with chkOk := false })

theorem acknowledge_setSout_setErrors (out : List Byte) (e : BitVec 3) (o : Bool) (g : Regs) :
    (setSout (g.setErrors e o) out).acknowledge = (setSout g out).acknowledge :=
  match out with
  | [] | [_] | _ :: _ :: _ => rfl

/-- R103: no command tests the error record. -/
theorem ignoresErrors_commandEffect (c : Instr) : ignoresErrors (commandEffect c) := by
  intro e o g
  have raised (n : ErrorName) := ignoresErrors_raise n e o g
  cases c with
  | crcCheck | lrcCheck => exact acknowledge_recordCheck_setErrors _ e o g
  | stuffByte => exact acknowledge_setSout_setErrors _ e o g
  | unstuffByte =>
    exact acknowledge_ite (acknowledge_ite rfl (acknowledge_ite (raised .format) rfl))
      (acknowledge_ite rfl (raised .format))
  | unstuffEnd => exact acknowledge_ite (raised .format) rfl
  | aesEncrypt | aesDecrypt => exact acknowledge_ite rfl (raised .noKey)
  | bfExtract => exact acknowledge_ite rfl (raised .field)
  | bfFill => exact acknowledge_ite (acknowledge_ite (raised .field) rfl) (raised .field)
  | rd | wr => exact raised .illegalCmd
  | _ => rfl

theorem ignoresErrors_storeReg (r : RegName) (v : Byte) : ignoresErrors (storeReg r v) := by
  intro e o g
  cases r <;> rfl

theorem RegsEffect.ignoresErrors {i : Instr} {f : Regs → Regs} (h : RegsEffect i f) : ignoresErrors f := by
  cases h with
  | command c => exact ignoresErrors_commandEffect c
  | reservedCommand => exact ignoresErrors_raise .illegalCmd
  | keyWrite => exact fun _ _ _ => rfl
  | store a v => exact ignoresErrors_storeReg _ v
  | refusedWrite => exact ignoresErrors_raise .illegalAccess

/-- States that agree but for the error record are equal once it is cleared in both. -/
theorem withErrors_none_eq {t u : State} (hregs : u.regs.acknowledge = t.regs.acknowledge)
    (hhost : u.host = t.host) : u.withErrors 0 false = t.withErrors 0 false :=
  calc u.withErrors 0 false = ⟨u.regs.acknowledge, u.host⟩ := rfl
    _ = ⟨t.regs.acknowledge, t.host⟩ := by rw [hregs, hhost]
    _ = t.withErrors 0 false := rfl

/-- Settles O47: a read outside STATUS returns the same byte, and every other access ignores the error record. -/
theorem recordedErrorsBlockNothing : Obligations.RecordedErrorsBlockNothing := by
  intro i s e o hi
  obtain ⟨a, rfl⟩ | ⟨f, heff, hexec⟩ := exec_cases i
  · have ha : a ≠ 0x01 := fun h => hi (h ▸ rfl)
    refine ⟨_, _, exec_rd a s, exec_rd a (s.withErrors e o), withErrors_none_eq rfl ?_⟩
    rw [State.withErrors_regs, memRead_setErrors e o s.regs ha]
    rfl
  · exact ⟨_, _, hexec s, hexec (s.withErrors e o), withErrors_none_eq (heff.ignoresErrors e o s.regs) rfl⟩

end Sys2Proof.Machine

/-! The CRC register (R121, R122): its shift, its step and its run, in the LSB-first and the MSB-first form. -/

namespace Sys2Proof.Machine

theorem getLsbD_reverse_of_lt {w : Nat} (v : BitVec w) {i : Nat} (hi : i < w) :
    v.reverse.getLsbD i = v.getLsbD (w - 1 - i) := by
  simp only [BitVec.getLsbD_reverse, BitVec.getMsbD, hi, decide_true, Bool.true_and]

theorem getLsbD_reverse16 (v : Word16) {i : Nat} (hi : i < 16) :
    (reverse16 v).getLsbD i = v.getLsbD (15 - i) :=
  getLsbD_reverse_of_lt v hi

theorem getLsbD_reverse8 (v : Byte) {i : Nat} (hi : i < 8) : (reverse8 v).getLsbD i = v.getLsbD (7 - i) :=
  getLsbD_reverse_of_lt v hi

theorem reverse16_reverse16 (v : Word16) : reverse16 (reverse16 v) = v := by
  apply BitVec.eq_of_getLsbD_eq
  intro i hi
  rw [getLsbD_reverse16 _ hi, getLsbD_reverse16 _ (by omega)]
  congr 1
  omega

theorem reverse16_xor (v w : Word16) : reverse16 (v ^^^ w) = reverse16 v ^^^ reverse16 w := by
  apply BitVec.eq_of_getLsbD_eq
  intro i hi
  simp only [getLsbD_reverse16 _ hi, BitVec.getLsbD_xor]

theorem reverse16_ushiftRight_one (t : Word16) : reverse16 (t >>> 1) = reverse16 t <<< 1 := by
  apply BitVec.eq_of_getLsbD_eq
  intro i hi
  rw [getLsbD_reverse16 _ hi, BitVec.getLsbD_ushiftRight, BitVec.getLsbD_shiftLeft]
  cases i with
  | zero => simp
  | succ i =>
    have hpos : 1 + (14 - i) = 15 - i := by omega
    simp [hpos, hi, getLsbD_reverse16 t (i := i) (by omega)]

/-- A byte enters the LSB-first register at the bottom and, reversed, the MSB-first register at the top. -/
theorem reverse16_setWidth (b : Byte) : reverse16 (b.setWidth 16) = (reverse8 b).setWidth 16 <<< 8 := by
  apply BitVec.eq_of_getLsbD_eq
  intro i hi
  rw [getLsbD_reverse16 _ hi, BitVec.getLsbD_setWidth, BitVec.getLsbD_shiftLeft, BitVec.getLsbD_setWidth]
  by_cases hlow : i < 8
  · simp [hlow, BitVec.getLsbD_of_ge b (15 - i) (by omega)]
  · have hpos : 7 - (i - 8) = 15 - i := by omega
    have hword : i - 8 < 16 := by omega
    have hback : 15 - i < 16 := by omega
    simp [hlow, hi, hword, hback, hpos, getLsbD_reverse8 b (i := i - 8) (by omega)]

/-- R122: `CRC_POLY_R` is `CRC_POLY` reversed, and so the two forms shift alike. -/
theorem reverse16_crcShift (t : Word16) : reverse16 (crcShift t) = crcShiftMsb (reverse16 t) := by
  have hout : (reverse16 t).getLsbD 15 = t.getLsbD 0 := getLsbD_reverse16 t (by omega)
  rw [crcShift, crcShiftMsb, hout]
  cases t.getLsbD 0 with
  | true => simp [reverse16_xor, reverse16_ushiftRight_one, crcPolyR, reverse16_reverse16]
  | false => simp [reverse16_ushiftRight_one]

theorem reverse16_repeat_crcShift (n : Nat) (t : Word16) :
    reverse16 (Nat.repeat crcShift n t) = Nat.repeat crcShiftMsb n (reverse16 t) := by
  induction n with
  | zero => rfl
  | succ n ih =>
    calc reverse16 (crcShift (Nat.repeat crcShift n t))
        = crcShiftMsb (reverse16 (Nat.repeat crcShift n t)) := reverse16_crcShift _
      _ = crcShiftMsb (Nat.repeat crcShiftMsb n (reverse16 t)) := by rw [ih]

theorem reverse16_crcStep (s : Word16) (b : Byte) : reverse16 (crcStep s b) = crcStepMsb (reverse16 s) b := by
  rw [crcStep, reverse16_repeat_crcShift, reverse16_xor, reverse16_setWidth]
  rfl

theorem reverse16_crcRun (s : Word16) (d : List Byte) : reverse16 (crcRun s d) = crcRunMsb (reverse16 s) d := by
  induction d generalizing s with
  | nil => rfl
  | cons b d ih => rw [crcRun, crcRunMsb, ih, reverse16_crcStep]

/-- Both forms give one result: CRC_REFOUT reverses the MSB-first register back. -/
theorem crcRes_crcRun (s : Word16) (d : List Byte) : crcRes (crcRun s d) = crcResMsb (crcRunMsb (reverse16 s) d) := by
  rw [← reverse16_crcRun, crcResMsb, Config.crcRefOut, if_pos rfl, reverse16_reverse16, crcRes]

/-- Settles O17: bit reversal commutes with one shift, hence with a step and with a run. -/
theorem reflectedCrcEqualsMsbFirstCrc : Obligations.ReflectedCrcEqualsMsbFirstCrc :=
  ⟨by decide, reverse16_crcStep, reverse16_crcRun, crcRes_crcRun⟩

end Sys2Proof.Machine

/-! The residue of the CRC (R127 law 3): the shift is linear, so of a register only the low byte is divided. -/

namespace Sys2Proof.Machine

theorem crcShift_xor (t u : Word16) : crcShift (t ^^^ u) = crcShift t ^^^ crcShift u := by
  simp only [crcShift, BitVec.getLsbD_xor, BitVec.ushiftRight_xor_distrib]
  cases t.getLsbD 0 <;> cases u.getLsbD 0
  · rfl
  · exact BitVec.xor_assoc ..
  · simp only [Bool.bne_false, if_true, if_false, Bool.false_eq_true]
    ac_rfl
  · have cancel : crcPolyR ^^^ crcPolyR = 0 := BitVec.xor_self
    calc t >>> 1 ^^^ u >>> 1 = t >>> 1 ^^^ u >>> 1 ^^^ (crcPolyR ^^^ crcPolyR) := by rw [cancel]; simp
      _ = (t >>> 1 ^^^ crcPolyR) ^^^ (u >>> 1 ^^^ crcPolyR) := by ac_rfl

theorem repeat_crcShift_xor (n : Nat) (t u : Word16) :
    Nat.repeat crcShift n (t ^^^ u) = Nat.repeat crcShift n t ^^^ Nat.repeat crcShift n u := by
  induction n with
  | zero => rfl
  | succ n ih => rw [Nat.repeat, ih, crcShift_xor, Nat.repeat, Nat.repeat]

/-- As long as zeros leave the register, it is only shifted. -/
theorem repeat_crcShift_of_low_zero (n : Nat) (t : Word16) (hlow : ∀ i < n, t.getLsbD i = false) :
    Nat.repeat crcShift n t = t >>> n := by
  induction n with
  | zero => simp [Nat.repeat]
  | succ n ih =>
    have hout : (t >>> n).getLsbD 0 = false := by simpa using hlow n (by omega)
    rw [Nat.repeat, ih fun i hi => hlow i (by omega), crcShift, hout, BitVec.shiftRight_add]
    rfl

/-- A 16-bit value is its high byte moved up beside its low byte. -/
theorem eq_highByte_xor_lowByte (s : Word16) :
    s = (highByte s).setWidth 16 <<< 8 ^^^ (lowByte s).setWidth 16 := by
  apply BitVec.eq_of_getLsbD_eq
  intro i hi
  rw [BitVec.getLsbD_xor, BitVec.getLsbD_shiftLeft, BitVec.getLsbD_setWidth, BitVec.getLsbD_setWidth, highByte,
    lowByte, BitVec.getLsbD_extractLsb', BitVec.getLsbD_extractLsb']
  by_cases hlow : i < 8
  · simp [hlow, hi]
  · have hpos : 8 + (i - 8) = i := by omega
    have hbyte : i - 8 < 8 := by omega
    have hword : i - 8 < 16 := by omega
    simp [hlow, hi, hpos, hbyte, hword]

/-- A register whose low byte is zero loses it and is not divided. -/
theorem repeat_crcShift_high (b : Byte) :
    Nat.repeat crcShift 8 (b.setWidth 16 <<< 8) = b.setWidth 16 := by
  rw [repeat_crcShift_of_low_zero 8 _ fun i hi => by simp [hi]]
  apply BitVec.eq_of_getLsbD_eq
  intro i hi
  rw [BitVec.getLsbD_ushiftRight, BitVec.getLsbD_shiftLeft, BitVec.getLsbD_setWidth, BitVec.getLsbD_setWidth]
  by_cases hlow : i < 8
  · have hword : 8 + i < 16 := by omega
    simp [hlow, hi, hword]
  · simp [BitVec.getLsbD_of_ge b i (by omega)]

/-- A step byte by byte: the high byte moves down, and the low byte is divided together with the input. -/
theorem crcStep_eq_bytewise (s : Word16) (b : Byte) :
    crcStep s b = (highByte s).setWidth 16 ^^^ crcStep 0 (lowByte s ^^^ b) :=
  calc crcStep s b
      = Nat.repeat crcShift 8 ((highByte s).setWidth 16 <<< 8 ^^^ (lowByte s).setWidth 16 ^^^ b.setWidth 16) := by
        rw [← eq_highByte_xor_lowByte, crcStep]
    _ = Nat.repeat crcShift 8 ((highByte s).setWidth 16 <<< 8) ^^^
          Nat.repeat crcShift 8 (0 ^^^ (lowByte s ^^^ b).setWidth 16) := by
        rw [BitVec.xor_assoc, repeat_crcShift_xor, BitVec.setWidth_xor]
        simp
    _ = (highByte s).setWidth 16 ^^^ crcStep 0 (lowByte s ^^^ b) := by rw [repeat_crcShift_high, crcStep]

theorem lowByte_xor (s t : Word16) : lowByte (s ^^^ t) = lowByte s ^^^ lowByte t := BitVec.extractLsb'_xor ..

theorem highByte_xor (s t : Word16) : highByte (s ^^^ t) = highByte s ^^^ highByte t := BitVec.extractLsb'_xor ..

theorem lowByte_setWidth (b : Byte) : lowByte (b.setWidth 16) = b := by
  revert b
  decide

theorem highByte_setWidth (b : Byte) : highByte (b.setWidth 16) = 0x00 := by
  revert b
  decide

/-- The first result byte meets the low byte it was taken from, so the register's own part cancels. -/
theorem crcStep_lowByte_crcRes (s : Word16) :
    crcStep s (lowByte (crcRes s)) = (highByte s).setWidth 16 ^^^ crcStep 0 0xFF := by
  rw [crcStep_eq_bytewise, lowByte_crcRes, xor_cancel_left]
  rfl

theorem crcStep_zero_ff : crcStep 0 0xFF = 0x0F78 := by decide

theorem crcStep_zero_87 : crcStep 0 0x87 = 0xF0B7 := by decide

/-- R127 law 3: after the two result bytes nothing of the register is left but the residue. -/
theorem crcRun_crcRes (s : Word16) : crcRun s [lowByte (crcRes s), highByte (crcRes s)] = 0xF0B8 := by
  have hlow : lowByte ((highByte s).setWidth 16 ^^^ crcStep 0 0xFF) ^^^ highByte (crcRes s) =
      lowByte (crcStep 0 0xFF) ^^^ highByte Config.crcXorOut := by
    rw [lowByte_xor, lowByte_setWidth, highByte_crcRes, BitVec.xor_comm (highByte s), BitVec.xor_assoc,
      xor_cancel_left]
  have hhigh : highByte ((highByte s).setWidth 16 ^^^ crcStep 0 0xFF) = highByte (crcStep 0 0xFF) := by
    simp [highByte_xor, highByte_setWidth]
  rw [crcRun, crcRun, crcRun, crcStep_lowByte_crcRes, crcStep_eq_bytewise, hlow, hhigh, crcStep_zero_ff]
  calc (highByte 0x0F78).setWidth 16 ^^^ crcStep 0 (lowByte 0x0F78 ^^^ highByte Config.crcXorOut)
      = 0x000F ^^^ crcStep 0 0x87 := rfl
    _ = 0x000F ^^^ 0xF0B7 := by rw [crcStep_zero_87]
    _ = 0xF0B8 := by decide

end Sys2Proof.Machine

/-! CRC_INIT and CRC_UPDATE write CRC_S alone (R124, R125), which the CRC_S and CRC_OUT addresses show. -/

namespace Sys2Proof.Machine

/-- The registers with another CRC_S. -/
def Regs.setCrcS (c : Word16) (g : Regs) : Regs := { g with crcS := c }

theorem crcInitEffect_eq_setCrcS (g : Regs) : crcInitEffect g = g.setCrcS Config.crcInit := rfl

theorem crcUpdateEffect_eq_setCrcS (g : Regs) : crcUpdateEffect g = g.setCrcS (crcStep g.crcS g.opnd) := rfl

theorem memRead_setCrcS (c : Word16) (g : Regs) {a : Addr} (h : a ∉ [0x04, 0x05, 0x06, 0x07]) :
    memRead a (g.setCrcS c) = memRead a g := by
  simp only [List.mem_cons, List.not_mem_nil, or_false, not_or] at h
  obtain ⟨hlo, hhi, hout0, hout1⟩ := h
  unfold memRead
  cases hr : regAt a with
  | crcSLo => exact absurd (eq_of_regAt rfl hr) hlo
  | crcSHi => exact absurd (eq_of_regAt rfl hr) hhi
  | crcOut0 => exact absurd (eq_of_regAt rfl hr) hout0
  | crcOut1 => exact absurd (eq_of_regAt rfl hr) hout1
  | _ => rfl

theorem onlyChanges_of_setCrcS {s t : State} {c : Word16} (hregs : t.regs = s.regs.setCrcS c)
    (hhost : t.host = s.host) : onlyChanges [0x04, 0x05, 0x06, 0x07] s t := by
  refine ⟨fun a ha => ?_, ?_, hhost⟩
  · rw [hregs, memRead_setCrcS c s.regs ha]
  · rw [hregs, Regs.setCrcS]

theorem memRead_crcOut0 (g : Regs) : memRead 0x06 g = lowByte (crcRes g.crcS) := rfl

theorem memRead_crcOut1 (g : Regs) : memRead 0x07 g = highByte (crcRes g.crcS) := rfl

/-- The CRC of the empty sequence (R124). -/
theorem crcRes_crcInit : crcRes Config.crcInit = 0 := by decide

theorem memRead_crcOut_crcInitEffect (g : Regs) :
    memRead 0x06 (crcInitEffect g) = 0x00 ∧ memRead 0x07 (crcInitEffect g) = 0x00 := by
  rw [memRead_crcOut0, memRead_crcOut1, crcInitEffect, crcRes_crcInit]
  decide

/-- Settles O14: CRC_S takes 0xFFFF, whose result is 0x0000. -/
theorem crcInitLoadsTheInitialValue : Obligations.CrcInitLoadsTheInitialValue :=
  ⟨rfl, fun s =>
    have ⟨hout0, hout1⟩ := memRead_crcOut_crcInitEffect s.regs
    ⟨_, rfl, rfl, hout0, hout1, onlyChanges_of_setCrcS (crcInitEffect_eq_setCrcS s.regs) rfl⟩⟩

/-- Settles O15: the rule's two values are evaluated, and the update writes CRC_S alone. -/
theorem crcUpdateFeedsOneByte : Obligations.CrcUpdateFeedsOneByte :=
  ⟨rfl, by decide, by decide,
    fun s => ⟨_, rfl, rfl, rfl, onlyChanges_of_setCrcS (crcUpdateEffect_eq_setCrcS s.regs) rfl⟩⟩

end Sys2Proof.Machine

/-! The end of CRC_CHECK and LRC_CHECK (R126, R143), said once for both, and the verdict of CRC_CHECK. -/

namespace Sys2Proof.Machine

@[simp] theorem recordCheck_chkOk (ok : Bool) (g : Regs) : (recordCheck ok g).chkOk = ok := by
  obtain ⟨rfl, h⟩ | ⟨rfl, h⟩ := recordCheck_cases ok g
  · rw [h]
  · rw [h, raise_frame]

@[simp] theorem recordCheck_keyValid (ok : Bool) (g : Regs) : (recordCheck ok g).keyValid = g.keyValid := by
  rw [recordCheck_frame]

@[simp] theorem recordCheck_escPending (ok : Bool) (g : Regs) :
    (recordCheck ok g).escPending = g.escPending := by
  rw [recordCheck_frame]

/-- Only STATUS shows the verdict and the error record (R25). -/
theorem memRead_recordCheck (ok : Bool) (g : Regs) {a : Addr} (h : a ≠ 0x01) :
    memRead a (recordCheck ok g) = memRead a g := by
  rw [recordCheck_frame]
  unfold memRead
  cases hr : regAt a with
  | status => exact absurd (eq_of_regAt rfl hr) h
  | _ => rfl

theorem onlyChanges_recordCheck (ok : Bool) (s : State) : onlyChanges [0x01] s (s.onRegs (recordCheck ok)) := by
  refine ⟨fun a ha => memRead_recordCheck ok s.regs (by simpa using ha), ?_, rfl⟩
  rw [State.onRegs_regs, recordCheck_frame]

theorem keepsErrors_recordCheck_true (s : State) : keepsErrors s (s.onRegs (recordCheck true)) := ⟨rfl, rfl⟩

/-- A mismatch is recorded as any error is: CHK_OK, written before, is no part of the error record. -/
theorem recordsError_recordCheck_false (s : State) :
    recordsError .checksum s (s.onRegs (recordCheck false)) :=
  recordsError_raise .checksum (s.onRegs fun g => { g with chkOk := false })

theorem crcMatches_iff (g : Regs) :
    crcMatches g = true ↔
      (g.crcS ^^^ 0xFFFF).extractLsb' 0 8 = g.crcExp0 ∧ (g.crcS ^^^ 0xFFFF).extractLsb' 8 8 = g.crcExp1 := by
  rw [crcMatches, Bool.and_eq_true, beq_iff_eq, beq_iff_eq]
  rfl

theorem exec_crcCheck (s : State) : exec .crcCheck s = .next (s.onRegs (recordCheck (crcMatches s.regs))) := rfl

/-- Settles O16: the verdict is `crcMatches`, and what follows it is `recordCheck`. -/
theorem crcCheckComparesInWireOrder : Obligations.CrcCheckComparesInWireOrder := by
  refine ⟨rfl, fun s => ⟨_, exec_crcCheck s, onlyChanges_recordCheck _ s, recordCheck_keyValid _ _,
    recordCheck_escPending _ _, ?_, ?_, ?_⟩⟩ <;> rw [State.onRegs_regs, recordCheck_chkOk]
  · exact crcMatches_iff s.regs
  · intro hok
    rw [hok]
    exact keepsErrors_recordCheck_true s
  · intro hok
    rw [hok]
    exact recordsError_recordCheck_false s

end Sys2Proof.Machine

/-! The CRC unit as the host drives it (R90, R127): the writes that feed a byte and that check a trailer. -/

namespace Sys2Proof.Machine

theorem memWrite_crcInit (g : Regs) : memWrite 0x00 0x10 g = g.setCrcS 0xFFFF := rfl

/-- A byte written to OPND and CRC_UPDATE after it. -/
theorem memWrite_crcUpdate (b : Byte) (g : Regs) :
    memWrite 0x00 0x11 (memWrite 0x02 b g) = { g with opnd := b, crcS := crcStep g.crcS b } := rfl

/-- The two expected bytes and CRC_CHECK after them. -/
theorem memWrite_crcCheck (e0 e1 : Byte) (g : Regs) :
    memWrite 0x00 0x12 (memWrite 0x09 e1 (memWrite 0x08 e0 g)) =
      crcCheckEffect { g with crcExp0 := e0, crcExp1 := e1 } := rfl

/-- Feeding a sequence runs the register over it and writes nothing else but OPND. -/
theorem feed_crcUpdate (d : List Byte) (g : Regs) :
    feed 0x11 d g = { g with opnd := (feed 0x11 d g).opnd, crcS := crcRun g.crcS d } := by
  induction d generalizing g with
  | nil => rfl
  | cons b d ih => rw [feed_cons, memWrite_crcUpdate, ih, crcRun]

theorem feed_crcUpdate_crcS (d : List Byte) (g : Regs) : (feed 0x11 d g).crcS = crcRun g.crcS d := by
  rw [feed_crcUpdate]

/-- The result bytes of the register, in wire order, are the ones it is compared with. -/
theorem crcMatches_crcRes (g : Regs) :
    crcMatches { g with crcExp0 := memRead 0x06 g, crcExp1 := memRead 0x07 g } = true :=
  (crcMatches_iff _).mpr ⟨rfl, rfl⟩

/-- R127 law 4: the unit accepts its own trailer. -/
theorem memWrite_crcCheck_own (g : Regs) :
    memWrite 0x00 0x12 (memWrite 0x09 (memRead 0x07 g) (memWrite 0x08 (memRead 0x06 g) g)) =
      { g with crcExp0 := memRead 0x06 g, crcExp1 := memRead 0x07 g, chkOk := true } := by
  rw [memWrite_crcCheck, crcCheckEffect, crcMatches_crcRes]
  rfl

theorem crcRun_check_value :
    crcRes (crcRun 0xFFFF [0x31, 0x32, 0x33, 0x34, 0x35, 0x36, 0x37, 0x38, 0x39]) = 0x906E := by
  decide +kernel

/-- Settles O18: feeding is `crcRun`, its two result bytes leave the residue, and the unit accepts them. -/
theorem crcStreamLaws : Obligations.CrcStreamLaws := by
  refine ⟨crcRun_check_value, fun d g => ⟨_, rfl, ?_⟩⟩
  rw [memWrite_crcInit]
  have hfeed := feed_crcUpdate d (g.setCrcS 0xFFFF)
  generalize feed 0x11 d (g.setCrcS 0xFFFF) = h at hfeed
  have herr : h.err = g.err := by rw [hfeed, Regs.setCrcS]
  have hovf : h.errOvf = g.errOvf := by rw [hfeed, Regs.setCrcS]
  have hrun : h.crcS = crcRun 0xFFFF d := by rw [hfeed, Regs.setCrcS]
  have hresidue : (feed 0x11 [memRead 0x06 h, memRead 0x07 h] h).crcS = 0xF0B8 := by
    rw [feed_crcUpdate_crcS]
    exact crcRun_crcRes h.crcS
  exact ⟨hrun, herr, hovf, hresidue, _, (memWrite_crcCheck_own h).symm, rfl, herr, hovf⟩

end Sys2Proof.Machine

/-! LRC_INIT and LRC_UPDATE write LRC_S alone (R141, R142), which one address shows. -/

namespace Sys2Proof.Machine

/-- The registers with another LRC_S. -/
def Regs.setLrcS (v : Byte) (g : Regs) : Regs := { g with lrcS := v }

@[simp] theorem Regs.setLrcS_lrcS (v : Byte) (g : Regs) : (g.setLrcS v).lrcS = v := rfl

theorem lrcInitEffect_eq_setLrcS (g : Regs) : lrcInitEffect g = g.setLrcS 0x55 := rfl

theorem lrcUpdateEffect_eq_setLrcS (g : Regs) : lrcUpdateEffect g = g.setLrcS (g.lrcS ^^^ g.opnd) := rfl

theorem memRead_setLrcS (v : Byte) (g : Regs) {a : Addr} (h : a ≠ 0x0A) :
    memRead a (g.setLrcS v) = memRead a g := by
  unfold memRead
  cases hr : regAt a with
  | lrcS => exact absurd (eq_of_regAt rfl hr) h
  | _ => rfl

theorem onlyChanges_of_setLrcS {s t : State} {v : Byte} (hregs : t.regs = s.regs.setLrcS v)
    (hhost : t.host = s.host) : onlyChanges [0x0A] s t := by
  refine ⟨fun a ha => ?_, ?_, hhost⟩
  · rw [hregs, memRead_setLrcS v s.regs (by simpa using ha)]
  · rw [hregs, Regs.setLrcS]

/-- The LRC of the empty sequence is the seed (R141). -/
theorem lrc_nil : lrc [] = 0x55 := rfl

/-- Settles O19: the seed is the LRC of the empty sequence, and LRC_INIT writes LRC_S alone. -/
theorem lrcInitLoadsTheSeed : Obligations.LrcInitLoadsTheSeed :=
  ⟨rfl, lrc_nil, fun s => ⟨_, rfl, rfl, onlyChanges_of_setLrcS (lrcInitEffect_eq_setLrcS s.regs) rfl⟩⟩

/-- Settles O20: LRC_UPDATE writes LRC_S alone. -/
theorem lrcUpdateXorsOneByte : Obligations.LrcUpdateXorsOneByte :=
  ⟨rfl, fun s => ⟨_, rfl, rfl, onlyChanges_of_setLrcS (lrcUpdateEffect_eq_setLrcS s.regs) rfl⟩⟩

end Sys2Proof.Machine

/-! LRC_CHECK (R143): its verdict, and the error record that the end of a check leaves. -/

namespace Sys2Proof.Machine

/-- CHK_OK tells whether the check recorded CHECKSUM (R143, R224). -/
theorem errors_recordCheck (ok : Bool) (s : State) :
    ((recordCheck ok s.regs).chkOk = true → keepsErrors s (s.onRegs (recordCheck ok))) ∧
    ((recordCheck ok s.regs).chkOk = false → recordsError .checksum s (s.onRegs (recordCheck ok))) := by
  rw [recordCheck_chkOk]
  cases ok with
  | true => exact ⟨fun _ => keepsErrors_recordCheck_true s, nofun⟩
  | false => exact ⟨nofun, fun _ => recordsError_recordCheck_false s⟩

theorem exec_lrcCheck (s : State) :
    exec .lrcCheck s = .next (s.onRegs (recordCheck (s.regs.lrcS == s.regs.opnd))) := rfl

/-- Settles O21: the verdict is whether LRC_S equals OPND, and what follows it is `recordCheck`. -/
theorem lrcCheckComparesWithOpnd : Obligations.LrcCheckComparesWithOpnd := by
  refine ⟨rfl, fun s => ⟨_, exec_lrcCheck s, onlyChanges_recordCheck _ s, recordCheck_keyValid _ _,
    recordCheck_escPending _ _, ?_, errors_recordCheck _ s⟩⟩
  rw [State.onRegs_regs, recordCheck_chkOk, beq_iff_eq]

end Sys2Proof.Machine

/-! The LRC over byte sequences (R144), in `lrc` and in the unit as the host drives it. -/

namespace Sys2Proof.Machine

/-- One more byte is XORed in. -/
theorem lrc_append_singleton (d : List Byte) (b : Byte) : lrc (d ++ [b]) = lrc d ^^^ b := by
  rw [lrc, List.foldl_append, lrc, List.foldl_cons, List.foldl_nil]

/-- R144: the LRC of `x`, freed of its seed, comes out in front of the running XOR over `y`. -/
theorem lrc_append (x y : List Byte) : lrc (x ++ y) = lrc x ^^^ lrc y ^^^ 0x55 :=
  calc lrc (x ++ y)
      = y.foldl (fun acc b => acc ^^^ b) (lrc x) := List.foldl_append
    _ = y.foldl (fun acc b => acc ^^^ b) (lrc x ^^^ 0x55 ^^^ 0x55) := by
        rw [BitVec.xor_assoc, BitVec.xor_self, BitVec.xor_zero]
    _ = lrc x ^^^ 0x55 ^^^ lrc y := List.foldl_assoc
    _ = lrc x ^^^ lrc y ^^^ 0x55 := by ac_rfl

/-- R144: a sequence followed by its own LRC has LRC zero. -/
theorem lrc_append_lrc (d : List Byte) : lrc (d ++ [lrc d]) = 0x00 := by
  rw [lrc_append_singleton, BitVec.xor_self]
  rfl

theorem memWrite_lrcInit (g : Regs) : memWrite 0x00 0x20 g = g.setLrcS 0x55 := rfl

/-- A byte written to OPND and LRC_UPDATE after it. -/
theorem memWrite_lrcUpdate (b : Byte) (g : Regs) :
    memWrite 0x00 0x21 (memWrite 0x02 b g) = { g with opnd := b, lrcS := g.lrcS ^^^ b } := rfl

/-- Feeding a sequence XORs its bytes into LRC_S. -/
theorem feed_lrcUpdate_lrcS (d : List Byte) (g : Regs) :
    (feed 0x21 d g).lrcS = d.foldl (fun acc b => acc ^^^ b) g.lrcS := by
  induction d generalizing g with
  | nil => rfl
  | cons b d ih => rw [feed_cons, memWrite_lrcUpdate, ih, List.foldl_cons]

/-- R144: LRC_INIT and the bytes of a sequence leave its LRC in LRC_S. -/
theorem feed_after_lrcInit_lrcS (d : List Byte) (g : Regs) :
    (feed 0x21 d (memWrite 0x00 0x20 g)).lrcS = lrc d := by
  rw [memWrite_lrcInit, feed_lrcUpdate_lrcS, Regs.setLrcS_lrcS]
  rfl

/-- Settles O22: feeding after LRC_INIT computes `lrc`, so the laws are those of `lrc`. -/
theorem lrcStreamLaws : Obligations.LrcStreamLaws :=
  ⟨fun x g => ⟨feed_after_lrcInit_lrcS x g, (feed_after_lrcInit_lrcS _ g).trans (lrc_append_lrc x)⟩, lrc_append⟩

end Sys2Proof.Machine

/-! The stuffing function (R160, R161, R166): one byte, and then byte sequences. -/

namespace Sys2Proof.Machine

theorem isReservedByte_iff (b : Byte) : isReservedByte b = true ↔ b = 0x7E ∨ b = 0x7D := by
  rw [isReservedByte, Bool.or_eq_true, beq_iff_eq, beq_iff_eq]
  rfl

theorem isReservedByte_eq_false_iff (b : Byte) : isReservedByte b = false ↔ b ≠ 0x7E ∧ b ≠ 0x7D := by
  rw [← Bool.not_eq_true, isReservedByte_iff, not_or]

theorem stuff1_of_reserved {b : Byte} (h : isReservedByte b = true) :
    stuff1 b = [Config.esc, b ^^^ Config.escXor] :=
  if_pos h

theorem stuff1_of_not_reserved {b : Byte} (h : isReservedByte b = false) : stuff1 b = [b] := by
  rw [stuff1, h]
  rfl

theorem length_stuff1 (b : Byte) : (stuff1 b).length = if isReservedByte b then 2 else 1 := by
  rw [stuff1]
  split <;> rfl

theorem marker_not_mem_stuff1 (b : Byte) : Config.marker ∉ stuff1 b := by
  cases h : isReservedByte b with
  | true =>
    rw [stuff1_of_reserved h]
    obtain rfl | rfl := (isReservedByte_iff b).mp h <;> decide
  | false =>
    rw [stuff1_of_not_reserved h, List.mem_singleton]
    exact ((isReservedByte_eq_false_iff b).mp h).1.symm

/-- The transform of R161 undoes itself. -/
theorem xor_escXor_twice (b : Byte) : b ^^^ Config.escXor ^^^ Config.escXor = b := by
  rw [BitVec.xor_assoc, BitVec.xor_self, BitVec.xor_zero]

theorem stuff_append (x y : List Byte) : stuff (x ++ y) = stuff x ++ stuff y := List.flatMap_append

theorem stuff_cons (b : Byte) (x : List Byte) : stuff (b :: x) = stuff1 b ++ stuff x := List.flatMap_cons

theorem stuff_singleton (b : Byte) : stuff [b] = stuff1 b := List.flatMap_singleton ..

/-- R166 law 2: each reserved byte costs one byte more. -/
theorem length_stuff (x : List Byte) : (stuff x).length = x.length + x.countP isReservedByte := by
  induction x with
  | nil => rfl
  | cons b x ih =>
    rw [stuff_cons, List.length_append, length_stuff1, ih, List.countP_cons, List.length_cons]
    split <;> omega

/-- R166 law 3: a marker in a received frame is a boundary or an error. -/
theorem marker_not_mem_stuff (x : List Byte) : Config.marker ∉ stuff x := by
  rw [stuff, List.mem_flatMap]
  rintro ⟨b, _, hb⟩
  exact marker_not_mem_stuff1 b hb

end Sys2Proof.Machine

/-! What the stuffing unit writes (R31, R32): the output registers, ESC_PENDING, and where they are read. -/

namespace Sys2Proof.Machine

/-- The registers with another ESC_PENDING. -/
def Regs.setEscPending (p : Bool) (g : Regs) : Regs := { g with escPending := p }

/-- The output registers at their addresses: a position that is not valid reads 0 (R31). -/
theorem memRead_setSout_nil (g : Regs) :
    memRead 0x0C (setSout g []) = 0x00 ∧ memRead 0x0D (setSout g []) = 0x00 ∧ memRead 0x0E (setSout g []) = 0x00 :=
  ⟨rfl, rfl, rfl⟩

theorem memRead_setSout_one (g : Regs) (a : Byte) :
    memRead 0x0C (setSout g [a]) = a ∧ memRead 0x0D (setSout g [a]) = 0x00 ∧ memRead 0x0E (setSout g [a]) = 0x01 :=
  ⟨rfl, rfl, rfl⟩

theorem memRead_setSout_two (g : Regs) (a b : Byte) :
    memRead 0x0C (setSout g [a, b]) = a ∧ memRead 0x0D (setSout g [a, b]) = b ∧
      memRead 0x0E (setSout g [a, b]) = 0x02 :=
  ⟨rfl, rfl, rfl⟩

/-- The output registers are seen at their three addresses alone. -/
theorem memRead_setSout (g : Regs) (out : List Byte) {a : Addr} (h : a ∉ [0x0C, 0x0D, 0x0E]) :
    memRead a (setSout g out) = memRead a g := by
  simp only [List.mem_cons, List.not_mem_nil, or_false, not_or] at h
  obtain ⟨hsout0, hsout1, hcnt⟩ := h
  rw [setSout_frame]
  unfold memRead
  cases hr : regAt a with
  | sout0 => exact absurd (eq_of_regAt rfl hr) hsout0
  | sout1 => exact absurd (eq_of_regAt rfl hr) hsout1
  | soutCnt => exact absurd (eq_of_regAt rfl hr) hcnt
  | _ => rfl

/-- ESC_PENDING is seen in STATUS alone (R25). -/
theorem memRead_setEscPending (p : Bool) (g : Regs) {a : Addr} (h : a ≠ 0x01) :
    memRead a (g.setEscPending p) = memRead a g := by
  unfold memRead
  cases hr : regAt a with
  | status => exact absurd (eq_of_regAt rfl hr) h
  | _ => rfl

theorem onlyChanges_of_setSout {s t : State} {out : List Byte} (hregs : t.regs = setSout s.regs out)
    (hhost : t.host = s.host) : onlyChanges [0x0C, 0x0D, 0x0E] s t := by
  refine ⟨fun a ha => ?_, ?_, hhost⟩
  · rw [hregs, memRead_setSout _ _ ha]
  · rw [hregs, setSout_frame]

theorem onlyChanges_of_setSout_setEscPending {s t : State} {out : List Byte} {p : Bool}
    (hregs : t.regs = (setSout s.regs out).setEscPending p) (hhost : t.host = s.host) :
    onlyChanges [0x01, 0x0C, 0x0D, 0x0E] s t := by
  refine ⟨fun a ha => ?_, ?_, hhost⟩
  · obtain ⟨hstatus, hsout⟩ := List.ne_and_not_mem_of_not_mem_cons ha
    rw [hregs, memRead_setEscPending p _ hstatus, memRead_setSout _ _ hsout]
  · rw [hregs, setSout_frame, Regs.setEscPending]

/-- Beside ESC_PENDING, the unit writes no field of STATUS unless it raises. -/
theorem keeps_of_setSout_setEscPending {s t : State} {out : List Byte} {p : Bool}
    (hregs : t.regs = (setSout s.regs out).setEscPending p) :
    keepsErrors s t ∧ t.regs.keyValid = s.regs.keyValid ∧ t.regs.chkOk = s.regs.chkOk := by
  rw [keepsErrors, hregs, setSout_frame]
  exact ⟨⟨rfl, rfl⟩, rfl, rfl⟩

end Sys2Proof.Machine

/-! The commands of the stuffing unit (R162 to R165), case by case. -/

namespace Sys2Proof.Machine

theorem stuffClearEffect_eq (g : Regs) : stuffClearEffect g = (setSout g []).setEscPending false := rfl

/-- R164: with no escape pending, an escape is taken and nothing comes out. -/
theorem unstuffByteEffect_esc {g : Regs} (hesc : g.escPending = false) (hb : g.opnd = Config.esc) :
    unstuffByteEffect g = (setSout g []).setEscPending true := by
  rw [unstuffByteEffect, if_pos hesc, if_pos hb]
  rfl

/-- R164: a bare marker inside the interior is a FORMAT error. -/
theorem unstuffByteEffect_marker {g : Regs} (hesc : g.escPending = false) (hb : g.opnd = Config.marker) :
    unstuffByteEffect g = raise .format g := by
  have hne : g.opnd ≠ Config.esc := hb ▸ by decide
  rw [unstuffByteEffect, if_pos hesc, if_neg hne, if_pos hb]

/-- R164: any other byte passes; ESC_PENDING, which is 0, is not written. -/
theorem unstuffByteEffect_plain {g : Regs} (hesc : g.escPending = false) (hb : isReservedByte g.opnd = false) :
    unstuffByteEffect g = (setSout g [g.opnd]).setEscPending false := by
  have ⟨(hmarker : g.opnd ≠ Config.marker), (hne : g.opnd ≠ Config.esc)⟩ := (isReservedByte_eq_false_iff _).mp hb
  rw [unstuffByteEffect, if_pos hesc, if_neg hne, if_neg hmarker, setSout_one, ← hesc]
  rfl

/-- R164: after an escape, the transform of a reserved byte gives that byte back. -/
theorem unstuffByteEffect_escaped {g : Regs} (hesc : g.escPending = true)
    (hb : isReservedByte (g.opnd ^^^ Config.escXor) = true) :
    unstuffByteEffect g = (setSout g [g.opnd ^^^ Config.escXor]).setEscPending false := by
  rw [unstuffByteEffect, if_neg (by simp [hesc]), if_pos hb]
  rfl

/-- R164: any other byte after an escape is a FORMAT error. -/
theorem unstuffByteEffect_badEscape {g : Regs} (hesc : g.escPending = true)
    (hb : isReservedByte (g.opnd ^^^ Config.escXor) = false) : unstuffByteEffect g = raise .format g := by
  rw [unstuffByteEffect, if_neg (by simp [hesc]), if_neg (by simp [hb])]

/-- What UNSTUFF_BYTE can do: take an escape, pass a byte, give an escaped byte back, or raise FORMAT. -/
theorem unstuffByteEffect_cases (g : Regs) :
    (g.escPending = false ∧ g.opnd = Config.esc ∧ unstuffByteEffect g = (setSout g []).setEscPending true) ∨
    (g.escPending = false ∧ isReservedByte g.opnd = false ∧
      unstuffByteEffect g = (setSout g [g.opnd]).setEscPending false) ∨
    (g.escPending = true ∧ isReservedByte (g.opnd ^^^ Config.escXor) = true ∧
      unstuffByteEffect g = (setSout g [g.opnd ^^^ Config.escXor]).setEscPending false) ∨
    unstuffByteEffect g = raise .format g := by
  cases hesc : g.escPending with
  | false =>
    cases hb : isReservedByte g.opnd with
    | false => exact .inr (.inl ⟨rfl, rfl, unstuffByteEffect_plain hesc hb⟩)
    | true =>
      obtain hmarker | hb := (isReservedByte_iff _).mp hb
      · exact .inr (.inr (.inr (unstuffByteEffect_marker hesc hmarker)))
      · exact .inl ⟨rfl, hb, unstuffByteEffect_esc hesc hb⟩
  | true =>
    cases hb : isReservedByte (g.opnd ^^^ Config.escXor) with
    | true => exact .inr (.inr (.inl ⟨rfl, rfl, unstuffByteEffect_escaped hesc hb⟩))
    | false => exact .inr (.inr (.inr (unstuffByteEffect_badEscape hesc hb)))

/-- UNSTUFF_BYTE raises FORMAT, or it writes the output registers and ESC_PENDING. -/
theorem unstuffByteEffect_raise_or_setSout (g : Regs) :
    unstuffByteEffect g = raise .format g ∨
      ∃ out p, unstuffByteEffect g = (setSout g out).setEscPending p := by
  obtain ⟨_, _, h⟩ | ⟨_, _, h⟩ | ⟨_, _, h⟩ | h := unstuffByteEffect_cases g
  · exact .inr ⟨_, _, h⟩
  · exact .inr ⟨_, _, h⟩
  · exact .inr ⟨_, _, h⟩
  · exact .inl h

/-- The transformed forms of the two reserved bytes (R161). -/
theorem isReservedByte_xor_escXor_iff :
    ∀ b : Byte, isReservedByte (b ^^^ Config.escXor) = true ↔ b = 0x5E ∨ b = 0x5D := by
  decide

theorem unstuffEndEffect_of_not_pending {g : Regs} (hesc : g.escPending = false) : unstuffEndEffect g = g := by
  rw [unstuffEndEffect, hesc]
  rfl

theorem unstuffEndEffect_of_pending {g : Regs} (hesc : g.escPending = true) :
    unstuffEndEffect g = raise .format g :=
  if_pos hesc

theorem raisesOnly_of_eq_raise {s t : State} {e : ErrorName} (hregs : t.regs = raise e s.regs)
    (hhost : t.host = s.host) : raisesOnly e s t := by
  obtain ⟨g, host⟩ := t
  obtain rfl : g = raise e s.regs := hregs
  obtain rfl : host = s.host := hhost
  exact raisesOnly_raise e s

/-- Settles O23: STUFF_CLEAR writes the output registers and ESC_PENDING alone. -/
theorem stuffClearEmptiesTheOutput : Obligations.StuffClearEmptiesTheOutput := by
  refine ⟨rfl, fun s => ⟨_, rfl, rfl, ?_⟩⟩
  have hregs : (s.onRegs stuffClearEffect).regs = (setSout s.regs []).setEscPending false :=
    stuffClearEffect_eq s.regs
  obtain ⟨hsout0, hsout1, hcnt⟩ := memRead_setSout_nil s.regs
  obtain ⟨herrors, hkey, hchk⟩ := keeps_of_setSout_setEscPending hregs
  exact ⟨hsout0, hsout1, hcnt, herrors, hkey, hchk, onlyChanges_of_setSout_setEscPending hregs rfl⟩

/-- Settles O24: STUFF_BYTE puts `stuff1` of the operand into the output registers and writes nothing else. -/
theorem stuffByteEscapesReservedBytes : Obligations.StuffByteEscapesReservedBytes := by
  refine ⟨rfl, fun s => ⟨s.onRegs stuffByteEffect, rfl, onlyChanges_of_setSout rfl rfl, fun h => ?_, fun h => ?_⟩⟩
  · rw [State.onRegs_regs, stuffByteEffect, stuff1_of_reserved ((isReservedByte_iff _).mpr h)]
    exact memRead_setSout_two s.regs _ _
  · rw [State.onRegs_regs, stuffByteEffect, stuff1_of_not_reserved ((isReservedByte_eq_false_iff _).mpr h)]
    exact memRead_setSout_one s.regs _

/-- Settles O25: one equation of UNSTUFF_BYTE for each case, and its frame whether it raises or not. -/
theorem unstuffByteUndoesOneByte : Obligations.UnstuffByteUndoesOneByte := by
  refine ⟨rfl, fun s => ⟨s.onRegs unstuffByteEffect, rfl, ?esc, ?marker, ?plain, ?escaped, ?badEscape, ?frame⟩⟩
  case esc =>
    rintro ⟨hesc, hb⟩
    rw [State.onRegs_regs, unstuffByteEffect_esc hesc hb]
    exact ⟨rfl, memRead_setSout_nil s.regs⟩
  case marker =>
    rintro ⟨hesc, hb⟩
    exact raisesOnly_of_eq_raise (unstuffByteEffect_marker hesc hb) rfl
  case plain =>
    rintro ⟨hesc, hne, hmarker⟩
    have hb := (isReservedByte_eq_false_iff s.regs.opnd).mpr ⟨hmarker, hne⟩
    rw [State.onRegs_regs, unstuffByteEffect_plain hesc hb]
    exact ⟨rfl, memRead_setSout_one s.regs _⟩
  case escaped =>
    rintro ⟨hesc, hb⟩
    rw [State.onRegs_regs, unstuffByteEffect_escaped hesc ((isReservedByte_xor_escXor_iff _).mpr hb)]
    exact ⟨rfl, memRead_setSout_one s.regs _⟩
  case badEscape =>
    rintro ⟨hesc, hb⟩
    rw [← not_or, ← isReservedByte_xor_escXor_iff, Bool.not_eq_true] at hb
    exact raisesOnly_of_eq_raise (unstuffByteEffect_badEscape hesc hb) rfl
  case frame =>
    obtain h | ⟨out, p, h⟩ := unstuffByteEffect_raise_or_setSout s.regs
    · exact .inl (raisesOnly_of_eq_raise h rfl)
    · have ⟨herrors, hkey, hchk⟩ := keeps_of_setSout_setEscPending (t := s.onRegs unstuffByteEffect) h
      exact .inr ⟨herrors, hkey, hchk, onlyChanges_of_setSout_setEscPending h rfl⟩

/-- Settles O26: UNSTUFF_END does nothing but raise, and that only with an escape pending. -/
theorem unstuffEndRejectsAPendingEscape : Obligations.UnstuffEndRejectsAPendingEscape := by
  refine ⟨rfl, fun s => ⟨s.onRegs unstuffEndEffect, rfl, fun hesc => ?_, fun hesc => ?_⟩⟩
  · rw [State.onRegs, unstuffEndEffect_of_not_pending hesc]
  · exact raisesOnly_of_eq_raise (unstuffEndEffect_of_pending hesc) rfl

end Sys2Proof.Machine

/-! The unit as the host drives it (R90, R166): streams of STUFF_BYTE and UNSTUFF_BYTE. -/

namespace Sys2Proof.Machine

/-- The registers with another OPND. -/
def Regs.setOpnd (b : Byte) (g : Regs) : Regs := { g with opnd := b }

/-- A byte written to OPND and STUFF_BYTE after it. -/
theorem memWrite_stuffByte (b : Byte) (g : Regs) :
    memWrite 0x00 0x31 (memWrite 0x02 b g) = setSout (g.setOpnd b) (stuff1 b) := rfl

/-- A byte written to OPND and UNSTUFF_BYTE after it. -/
theorem memWrite_unstuffByte (b : Byte) (g : Regs) :
    memWrite 0x00 0x32 (memWrite 0x02 b g) = unstuffByteEffect (g.setOpnd b) := rfl

theorem memWrite_unstuffEnd (g : Regs) : memWrite 0x00 0x33 g = unstuffEndEffect g := rfl

/-- One byte, its output first. -/
theorem stream_cons_out (c b : Byte) (d : List Byte) (g : Regs) :
    (stream c (b :: d) g).1 = (memWrite 0x00 c (memWrite 0x02 b g)).validOut ++
      (stream c d (memWrite 0x00 c (memWrite 0x02 b g))).1 := rfl

/-- The output of a sequence streamed in two parts. -/
theorem stream_append_out (c : Byte) (d e : List Byte) (g : Regs) :
    (stream c (d ++ e) g).1 = (stream c d g).1 ++ (stream c e (feed c d g)).1 := by
  induction d generalizing g with
  | nil => rfl
  | cons b d ih => rw [List.cons_append, stream_cons_out, ih, stream_cons_out, feed_cons, List.append_assoc]

/-- At most two bytes come out as they were put in. -/
theorem validOut_setSout (g : Regs) {out : List Byte} (h : out.length ≤ 2) : (setSout g out).validOut = out :=
  match out, h with
  | [], _ | [_], _ | [_, _], _ => rfl

theorem validOut_setEscPending (p : Bool) (g : Regs) : (g.setEscPending p).validOut = g.validOut := rfl

theorem length_stuff1_le (b : Byte) : (stuff1 b).length ≤ 2 := by
  rw [length_stuff1]
  split <;> omega

/-- R163: the stuffer's output is `stuff` of its input. -/
theorem stream_stuffByte_out (x : List Byte) (g : Regs) : (stream 0x31 x g).1 = stuff x := by
  induction x generalizing g with
  | nil => rfl
  | cons b x ih =>
    rw [stream_cons_out, ih, memWrite_stuffByte, validOut_setSout _ (length_stuff1_le b), stuff_cons]

theorem status_setSout (g : Regs) (out : List Byte) : (setSout g out).status = g.status := by
  rw [setSout_frame]
  rfl

/-- STATUS is the whole flag state (R25): these are the fields that the laws speak of. -/
theorem flags_eq_of_status_eq {g h : Regs} (heq : g.status = h.status) :
    g.escPending = h.escPending ∧ g.err = h.err ∧ g.errOvf = h.errOvf := by
  obtain ⟨gerr, govf, _, gesc, _⟩ := status_fields g
  obtain ⟨herr, hovf, _, hesc, _⟩ := status_fields h
  rw [← gesc, ← gerr, ← govf, heq]
  exact ⟨hesc, herr, hovf⟩

/-- R163: the stuffer leaves every flag alone. -/
theorem status_feed_stuffByte (x : List Byte) (g : Regs) : (feed 0x31 x g).status = g.status := by
  induction x generalizing g with
  | nil => rfl
  | cons b x ih =>
    rw [feed_cons, ih, memWrite_stuffByte, status_setSout]
    rfl

/-- An escape written to an unstuffer with none pending. -/
theorem memWrite_unstuffByte_esc {g : Regs} (hesc : g.escPending = false) :
    memWrite 0x00 0x32 (memWrite 0x02 Config.esc g) = (setSout (g.setOpnd Config.esc) []).setEscPending true :=
  unstuffByteEffect_esc hesc rfl

/-- An ordinary byte written to an unstuffer with no escape pending. -/
theorem memWrite_unstuffByte_plain {g : Regs} {b : Byte} (hesc : g.escPending = false)
    (hb : isReservedByte b = false) :
    memWrite 0x00 0x32 (memWrite 0x02 b g) = (setSout (g.setOpnd b) [b]).setEscPending false :=
  unstuffByteEffect_plain hesc hb

/-- The transform of a reserved byte written to an unstuffer with an escape pending. -/
theorem memWrite_unstuffByte_escaped {g : Regs} {b : Byte} (hesc : g.escPending = true)
    (hb : isReservedByte b = true) :
    memWrite 0x00 0x32 (memWrite 0x02 (b ^^^ Config.escXor) g) =
      (setSout (g.setOpnd (b ^^^ Config.escXor)) [b]).setEscPending false := by
  have h := unstuffByteEffect_escaped (g := g.setOpnd (b ^^^ Config.escXor)) hesc ((xor_escXor_twice b).symm ▸ hb)
  rwa [Regs.setOpnd, xor_escXor_twice] at h

/-- One stuffed byte through the unstuffer: it comes out as it was, and no flag is different at the end. -/
theorem unstuff_stuff1 (b : Byte) {g : Regs} (hesc : g.escPending = false) :
    (stream 0x32 (stuff1 b) g).1 = [b] ∧ (feed 0x32 (stuff1 b) g).status = g.status := by
  cases hb : isReservedByte b with
  | false =>
    rw [stuff1_of_not_reserved hb, stream_cons_out, feed_cons, memWrite_unstuffByte_plain hesc hb, ← hesc]
    exact ⟨rfl, rfl⟩
  | true =>
    rw [stuff1_of_reserved hb, stream_cons_out, stream_cons_out, feed_cons, feed_cons,
      memWrite_unstuffByte_esc hesc, memWrite_unstuffByte_escaped rfl hb, ← hesc]
    exact ⟨rfl, rfl⟩

/-- A stuffed sequence through the unstuffer, byte by byte of the original. -/
theorem unstuff_stuff (x : List Byte) {g : Regs} (hesc : g.escPending = false) :
    (stream 0x32 (stuff x) g).1 = x ∧ (feed 0x32 (stuff x) g).status = g.status := by
  induction x generalizing g with
  | nil => exact ⟨rfl, rfl⟩
  | cons b x ih =>
    obtain ⟨hout, hstatus⟩ := unstuff_stuff1 b hesc
    obtain ⟨hrest, hend⟩ := ih ((flags_eq_of_status_eq hstatus).1.trans hesc)
    rw [stuff_cons, stream_append_out, feed_append, hout, hrest, hend, hstatus]
    exact ⟨rfl, rfl⟩

/-- R166 law 1: UNSTUFF_END finds no escape pending after a stuffed sequence, and no error has been recorded. -/
theorem errors_unstuffEnd_feed_stuff (x : List Byte) {g : Regs} (hesc : g.escPending = false) :
    (memWrite 0x00 0x33 (feed 0x32 (stuff x) g)).err = g.err ∧
      (memWrite 0x00 0x33 (feed 0x32 (stuff x) g)).errOvf = g.errOvf := by
  obtain ⟨hpending, herr, hovf⟩ := flags_eq_of_status_eq (unstuff_stuff x hesc).2
  rw [memWrite_unstuffEnd, unstuffEndEffect_of_not_pending (hpending.trans hesc)]
  exact ⟨herr, hovf⟩

/-- Settles O27: the stuffer gives `stuff x` and keeps the flags, and the unstuffer gives `x` back. -/
theorem unstuffAfterStuffIsTheIdentity : Obligations.UnstuffAfterStuffIsTheIdentity := by
  intro x g hesc
  obtain ⟨hpending, herr, hovf⟩ := flags_eq_of_status_eq (status_feed_stuffByte x g)
  obtain ⟨hend, hendOvf⟩ := errors_unstuffEnd_feed_stuff x (hpending.trans hesc)
  rw [stream_regs, stream_regs, stream_stuffByte_out]
  exact ⟨rfl, (unstuff_stuff x (hpending.trans hesc)).1, hend.trans herr, hendOvf.trans hovf⟩

/-- R166 law 4: the unstuffer after reset undoes `stuff`. -/
theorem stuff_injective : Function.Injective stuff :=
  Function.LeftInverse.injective (g := fun y => (stream 0x32 y Regs.reset).1) fun x => (unstuff_stuff x rfl).1

/-- Settles O29: length and markers byte by byte, injectivity through the unstuffer. -/
theorem stuffedSequenceLaws : Obligations.StuffedSequenceLaws :=
  ⟨length_stuff, marker_not_mem_stuff, fun _ _ h => stuff_injective h⟩

end Sys2Proof.Machine

/-! The unstuffer accepts nothing but stuffed sequences (R161, R166 law 4). -/

namespace Sys2Proof.Machine

/-- What the unstuffer has taken of a stuffed sequence and not yet given out (R32). -/
def Regs.heldInput (g : Regs) : List Byte := if g.escPending then [Config.esc] else []

theorem heldInput_of_pending {g : Regs} (hesc : g.escPending = true) : g.heldInput = [Config.esc] := if_pos hesc

theorem heldInput_of_not_pending {g : Regs} (hesc : g.escPending = false) : g.heldInput = [] := by
  rw [Regs.heldInput, hesc]
  rfl

theorem raise_err_ne_zero (e : ErrorName) (g : Regs) : (raise e g).err ≠ 0 := by
  obtain ⟨_, h⟩ | ⟨hne, h⟩ := raise_cases e g
  · rw [h]
    exact e.code_ne.1
  · rw [h]
    exact hne

theorem err_setSout_setEscPending (p : Bool) (g : Regs) (out : List Byte) :
    ((setSout g out).setEscPending p).err = g.err := by
  rw [setSout_frame]
  rfl

/-- The unstuffer never clears a recorded error (R222). -/
theorem err_ne_zero_feed_unstuffByte (y : List Byte) {g : Regs} (h : g.err ≠ 0) : (feed 0x32 y g).err ≠ 0 := by
  induction y generalizing g with
  | nil => exact h
  | cons b y ih =>
    rw [feed_cons, memWrite_unstuffByte]
    obtain hraise | ⟨out, p, hout⟩ := unstuffByteEffect_raise_or_setSout (g.setOpnd b)
    · exact ih (hraise ▸ raise_err_ne_zero .format _)
    · exact ih (hout ▸ (err_setSout_setEscPending p _ out).symm ▸ h)

/-- Nor does UNSTUFF_END. -/
theorem err_ne_zero_unstuffEnd_feed (y : List Byte) {g : Regs} (h : g.err ≠ 0) :
    (memWrite 0x00 0x33 (feed 0x32 y g)).err ≠ 0 := by
  rw [memWrite_unstuffEnd]
  cases hesc : (feed 0x32 y g).escPending with
  | false =>
    rw [unstuffEndEffect_of_not_pending hesc]
    exact err_ne_zero_feed_unstuffByte y h
  | true =>
    rw [unstuffEndEffect_of_pending hesc]
    exact raise_err_ne_zero .format _

theorem heldInput_setEscPending_true (g : Regs) : (g.setEscPending true).heldInput = [Config.esc] := rfl

theorem heldInput_setEscPending_false (g : Regs) : (g.setEscPending false).heldInput = [] := rfl

/-- UNSTUFF_BYTE, unless it raises: what the unstuffer held and the operand are the stuffing of what comes out,
followed by what the unstuffer then holds. -/
theorem heldInput_unstuffByteEffect (g : Regs) :
    unstuffByteEffect g = raise .format g ∨
      g.heldInput ++ [g.opnd] = stuff (unstuffByteEffect g).validOut ++ (unstuffByteEffect g).heldInput := by
  obtain ⟨hesc, hb, hnext⟩ | ⟨hesc, hb, hnext⟩ | ⟨hesc, hb, hnext⟩ | hraise := unstuffByteEffect_cases g
  · rw [hnext, heldInput_of_not_pending hesc, hb, heldInput_setEscPending_true]
    exact .inr rfl
  · rw [hnext, heldInput_of_not_pending hesc, heldInput_setEscPending_false, validOut_setEscPending,
      validOut_setSout _ (by simp), stuff_singleton, stuff1_of_not_reserved hb]
    exact .inr rfl
  · rw [hnext, heldInput_of_pending hesc, heldInput_setEscPending_false, validOut_setEscPending,
      validOut_setSout _ (by simp), stuff_singleton, stuff1_of_reserved hb, xor_escXor_twice]
    exact .inr rfl
  · exact .inl hraise

/-- An accepted sequence, behind what the unstuffer held at its start, is the stuffing of its output. -/
theorem eq_stuff_of_accepted (y : List Byte) {g : Regs} (h : (memWrite 0x00 0x33 (feed 0x32 y g)).err = 0) :
    g.heldInput ++ y = stuff (stream 0x32 y g).1 := by
  induction y generalizing g with
  | nil =>
    cases hesc : g.escPending with
    | false =>
      rw [heldInput_of_not_pending hesc]
      rfl
    | true =>
      rw [memWrite_unstuffEnd, feed, unstuffEndEffect_of_pending hesc] at h
      exact absurd h (raise_err_ne_zero .format g)
  | cons b y ih =>
    rw [feed_cons, memWrite_unstuffByte] at h
    obtain hraise | hheld := heldInput_unstuffByteEffect (g.setOpnd b)
    · rw [hraise] at h
      exact absurd h (err_ne_zero_unstuffEnd_feed y (raise_err_ne_zero .format _))
    · calc g.heldInput ++ b :: y
          = (g.setOpnd b).heldInput ++ [b] ++ y := List.append_cons ..
        _ = stuff (unstuffByteEffect (g.setOpnd b)).validOut ++
              ((unstuffByteEffect (g.setOpnd b)).heldInput ++ y) := by rw [← List.append_assoc, ← hheld]; rfl
        _ = stuff (stream 0x32 (b :: y) g).1 := by rw [ih h, ← stuff_append]; rfl

/-- Settles O28: what is accepted is the stuffing of what came out, and a stuffed sequence leaves the error record as it was. -/
theorem unstuffAcceptsExactlyStuffedSequences : Obligations.UnstuffAcceptsExactlyStuffedSequences := by
  intro y g hesc herr
  constructor
  · intro h
    have hstuff := eq_stuff_of_accepted y h
    rw [heldInput_of_not_pending hesc, List.nil_append] at hstuff
    exact ⟨_, hstuff⟩
  · rintro ⟨x, rfl⟩
    exact (errors_unstuffEnd_feed_stuff x hesc).1.trans herr

end Sys2Proof.Machine

/-! The AES-128 primitive (R181): the inverse cipher undoes the cipher round by round. -/

namespace Sys2Proof.Machine

/-- One round key at a time: the inverse of the rounds on the later keys comes first, then that of this round. -/
theorem inverseRounds_cipherRounds (ks : List Block) (s : Block) : inverseRounds (cipherRounds s ks) ks = s := by
  induction s, ks using cipherRounds.induct with
  | case1 s => rfl
  | case2 s k =>
    rw [cipherRounds, inverseRounds, addRoundKey_twice, invShiftRows_shiftRows, invSubBytes_subBytes]
  | case3 s k k' ks ih =>
    rw [cipherRounds, inverseRounds, ih, addRoundKey_twice, invMixColumns_mixColumns, invShiftRows_shiftRows,
      invSubBytes_subBytes]

theorem inverseCipher_cipher (k p : Block) : inverseCipher k (cipher k p) = p := by
  rw [inverseCipher, cipher, inverseRounds_cipherRounds, addRoundKey_twice]

theorem aes128Dec_aes128Enc (k p : Word128) : aes128Dec k (aes128Enc k p) = p := by
  rw [aes128Dec, aes128Enc, unpackBlock_packBlock, inverseCipher_cipher, packBlock_unpackBlock]

/-- Settles O34: the block's bytes go through the cipher and its inverse with the same round keys. -/
theorem aesDecryptInvertsEncrypt : Obligations.AesDecryptInvertsEncrypt := aes128Dec_aes128Enc

end Sys2Proof.Machine

/-! What the AES wrapper writes (R25, R38, R39): KEY_VALID, DIN and DOUT, and where they are read. -/

namespace Sys2Proof.Machine

/-- The registers with another KEY_VALID. -/
def Regs.setKeyValid (v : Bool) (g : Regs) : Regs := { g with keyValid := v }

/-- The registers with another DIN. -/
def Regs.setDin (b : Block) (g : Regs) : Regs := { g with din := b }

/-- The registers with another DOUT. -/
def Regs.setDout (b : Block) (g : Regs) : Regs := { g with dout := b }

@[simp] theorem Regs.setDin_keyValid (b : Block) (g : Regs) : (g.setDin b).keyValid = g.keyValid := rfl
@[simp] theorem Regs.setDin_key (b : Block) (g : Regs) : (g.setDin b).key = g.key := rfl
@[simp] theorem Regs.setDin_din (b : Block) (g : Regs) : (g.setDin b).din = b := rfl
@[simp] theorem Regs.setDout_keyValid (b : Block) (g : Regs) : (g.setDout b).keyValid = g.keyValid := rfl
@[simp] theorem Regs.setDout_key (b : Block) (g : Regs) : (g.setDout b).key = g.key := rfl
@[simp] theorem Regs.setDout_dout (b : Block) (g : Regs) : (g.setDout b).dout = b := rfl

/-- KEY_VALID is seen in STATUS alone (R25). -/
theorem memRead_setKeyValid (v : Bool) (g : Regs) {a : Addr} (h : a ≠ 0x01) :
    memRead a (g.setKeyValid v) = memRead a g := by
  unfold memRead
  cases hr : regAt a with
  | status => exact absurd (eq_of_regAt rfl hr) h
  | _ => rfl

/-- DOUT is seen at its own addresses alone. -/
theorem memRead_setDout (b : Block) (g : Regs) {a : Addr} (h : ∀ i, regAt a ≠ .dout i) :
    memRead a (g.setDout b) = memRead a g := by
  unfold memRead
  cases hr : regAt a with
  | dout i => exact absurd hr (h i)
  | _ => rfl

/-- DOUT[i] is read at 0x40 + i (R39). -/
theorem memRead_dout (i : Fin 16) (g : Regs) : memRead (BitVec.ofNat 7 (0x40 + i.val)) g = g.dout[i] :=
  memRead_of_addr? (r := .dout i) rfl g

theorem regAt_ne_dout_of_not_mem {a : Addr} (h : a ∉ (List.range 16).map fun i => BitVec.ofNat 7 (0x40 + i))
    (i : Fin 16) : regAt a ≠ .dout i := by
  intro hr
  obtain rfl : a = BitVec.ofNat 7 (0x40 + i.val) := eq_of_regAt rfl hr
  exact h (List.mem_map.mpr ⟨i.val, List.mem_range.mpr i.isLt, rfl⟩)

theorem regAt_ne_dout_of_range {a : Addr} (h : a.toNat < 0x40 ∨ 0x4F < a.toNat) (i : Fin 16) :
    regAt a ≠ .dout i := by
  intro hr
  obtain rfl : a = BitVec.ofNat 7 (0x40 + i.val) := eq_of_regAt rfl hr
  rw [BitVec.toNat_ofNat] at h
  omega

end Sys2Proof.Machine

/-! The commands of the AES wrapper (R184 to R187): the two ciphers share what they do with a block. -/

namespace Sys2Proof.Machine

/-- The block `w` goes to DOUT if a key is committed; otherwise NO_KEY is raised (R185, R186). -/
def outputBlock (w : Word128) (g : Regs) : Regs :=
  if g.keyValid then g.setDout (unpackBlock w) else raise .noKey g

theorem aesEncryptEffect_eq_outputBlock (g : Regs) :
    aesEncryptEffect g = outputBlock (aes128Enc (packBlock g.key) (packBlock g.din)) g := rfl

theorem aesDecryptEffect_eq_outputBlock (g : Regs) :
    aesDecryptEffect g = outputBlock (aes128Dec (packBlock g.key) (packBlock g.din)) g := rfl

theorem outputBlock_of_keyValid {g : Regs} (h : g.keyValid = true) (w : Word128) :
    outputBlock w g = g.setDout (unpackBlock w) :=
  if_pos h

theorem outputBlock_of_not_keyValid {g : Regs} (h : g.keyValid = false) (w : Word128) :
    outputBlock w g = raise .noKey g :=
  if_neg (Bool.eq_false_iff.mp h)

/-- R182: byte `i` of the block is read at DOUT[i]. -/
theorem memRead_setDout_unpackBlock (w : Word128) (g : Regs) (i : Fin 16) :
    memRead (BitVec.ofNat 7 (0x40 + i.val)) (g.setDout (unpackBlock w)) = w.extractLsb' (120 - 8 * i.val) 8 :=
  (memRead_dout i _).trans (getElem_unpackBlock w i i.isLt)

/-- What the host sees of the two ciphers. -/
theorem outputBlock_spec {s t : State} {w : Word128} (hregs : t.regs = outputBlock w s.regs)
    (hhost : t.host = s.host) :
    (s.regs.keyValid = true →
      (∀ i : Fin 16, memRead (BitVec.ofNat 7 (0x40 + i.val)) t.regs = w.extractLsb' (120 - 8 * i.val) 8) ∧
      onlyChanges ((List.range 16).map fun i => BitVec.ofNat 7 (0x40 + i)) s t) ∧
    (s.regs.keyValid = false → raisesOnly .noKey s t) := by
  constructor
  · intro hvalid
    rw [outputBlock_of_keyValid hvalid] at hregs
    rw [onlyChanges, hregs]
    exact ⟨memRead_setDout_unpackBlock w s.regs,
      fun a ha => memRead_setDout _ s.regs (regAt_ne_dout_of_not_mem ha), rfl, hhost⟩
  · intro hinvalid
    rw [outputBlock_of_not_keyValid hinvalid] at hregs
    exact raisesOnly_of_eq_raise hregs hhost

/-- Settles O31: the block put out is the cipher's. -/
theorem aesEncryptWritesTheCipherBlock : Obligations.AesEncryptWritesTheCipherBlock :=
  ⟨rfl, fun s => ⟨_, rfl, outputBlock_spec (aesEncryptEffect_eq_outputBlock s.regs) rfl⟩⟩

/-- Settles O32: the block put out is the inverse cipher's. -/
theorem aesDecryptWritesThePlainBlock : Obligations.AesDecryptWritesThePlainBlock :=
  ⟨rfl, fun s => ⟨_, rfl, outputBlock_spec (aesDecryptEffect_eq_outputBlock s.regs) rfl⟩⟩

theorem aesKeyCommitEffect_eq_setKeyValid (g : Regs) : aesKeyCommitEffect g = g.setKeyValid true := rfl

/-- Settles O30: KEY_VALID is the one field written, whatever the key. -/
theorem aesKeyCommitValidatesTheKey : Obligations.AesKeyCommitValidatesTheKey := by
  refine ⟨rfl, fun s => ⟨s.onRegs aesKeyCommitEffect, rfl, rfl, ⟨rfl, rfl⟩, rfl, rfl, fun a ha => ?_,
    rfl, rfl⟩⟩
  rw [State.onRegs_regs, aesKeyCommitEffect_eq_setKeyValid]
  exact memRead_setKeyValid true s.regs (by simpa using ha)

theorem aesKeyClearEffect_eq (g : Regs) :
    aesKeyClearEffect g =
      ((g.setDout (Vector.replicate 16 0x00)).setKey (Vector.replicate 16 0x00)).setKeyValid false := rfl

theorem memRead_aesKeyClearEffect (g : Regs) {a : Addr} (hstatus : a ≠ 0x01)
    (hdout : a.toNat < 0x40 ∨ 0x4F < a.toNat) : memRead a (aesKeyClearEffect g) = memRead a g := by
  rw [aesKeyClearEffect_eq, memRead_setKeyValid _ _ hstatus, memRead_setKey,
    memRead_setDout _ _ (regAt_ne_dout_of_range hdout)]

/-- Settles O33: KEY, DOUT and KEY_VALID are the fields written, and no address reads the key. -/
theorem aesKeyClearZeroesKeyAndOutput : Obligations.AesKeyClearZeroesKeyAndOutput := by
  refine ⟨rfl, fun s => ⟨s.onRegs aesKeyClearEffect, rfl, fun i => Vector.getElem_replicate i.isLt,
    fun i => ?dout, rfl, ⟨rfl, rfl⟩, rfl, rfl, rfl, fun a => memRead_aesKeyClearEffect s.regs⟩⟩
  rw [memRead_dout]
  exact Vector.getElem_replicate i.isLt

end Sys2Proof.Machine

/-! The round trip through the wrapper (R181, R182): the host copies DOUT to DIN byte by byte. -/

namespace Sys2Proof.Machine

/-- The block `d` with the bytes of `b` put in at the positions of a list, one after the other. -/
def copyAt (b : Block) (is : List (Fin 16)) (d : Block) : Block :=
  is.foldl (fun (acc : Block) (i : Fin 16) => acc.set i b[i]) d

theorem getElem_copyAt_of_not_mem (b : Block) {is : List (Fin 16)} {j : Fin 16} (h : j ∉ is) (d : Block) :
    (copyAt b is d)[j] = d[j] := by
  induction is generalizing d with
  | nil => rfl
  | cons i is ih =>
    obtain ⟨hji, hjis⟩ := List.ne_and_not_mem_of_not_mem_cons h
    exact (ih hjis _).trans (Vector.getElem_set_ne _ _ fun hij => hji (Fin.ext hij.symm))

theorem getElem_copyAt_of_mem (b : Block) {is : List (Fin 16)} {j : Fin 16} (h : j ∈ is) (d : Block) :
    (copyAt b is d)[j] = b[j] := by
  induction is generalizing d with
  | nil => cases h
  | cons i is ih =>
    by_cases hjis : j ∈ is
    · exact ih hjis _
    · obtain rfl : j = i := (List.mem_cons.mp h).resolve_right hjis
      exact (getElem_copyAt_of_not_mem b hjis _).trans (Vector.getElem_set_self _)

/-- Copied at every position, the block is the other one. -/
theorem copyAt_finRange (b d : Block) : copyAt b (List.finRange 16) d = b :=
  Vector.ext fun i hi => getElem_copyAt_of_mem b (List.mem_finRange ⟨i, hi⟩) d

/-- DIN[i] is written at 0x30 + i (R38). -/
theorem memWrite_din (i : Fin 16) (v : Byte) (g : Regs) :
    memWrite (BitVec.ofNat 7 (0x30 + i.val)) v g = g.setDin (g.din.set i v) := by
  have hreg : regAt (BitVec.ofNat 7 (0x30 + i.val)) = .din i := regAt_of_addr? (r := .din i) rfl
  rw [memWrite_rw (by rw [hreg, RegName.access]), hreg]
  rfl

theorem foldl_memWrite_din (b : Block) (is : List (Fin 16)) (g : Regs) :
    is.foldl (fun acc i => memWrite (BitVec.ofNat 7 (0x30 + i.val)) b[i] acc) g =
      g.setDin (copyAt b is g.din) := by
  induction is generalizing g with
  | nil => rfl
  | cons i is ih =>
    rw [List.foldl_cons, memWrite_din, ih]
    rfl

/-- `SET_BLOCK` writes DIN alone (R90). -/
theorem writeBlock_din (b : Block) (g : Regs) : writeBlock 0x30 b g = g.setDin b := by
  rw [writeBlock, foldl_memWrite_din, copyAt_finRange]

theorem memWrite_aesEncrypt {g : Regs} (hvalid : g.keyValid = true) :
    memWrite 0x00 0x41 g = g.setDout (unpackBlock (aes128Enc (packBlock g.key) (packBlock g.din))) :=
  outputBlock_of_keyValid hvalid _

theorem memWrite_aesDecrypt {g : Regs} (hvalid : g.keyValid = true) :
    memWrite 0x00 0x42 g = g.setDout (unpackBlock (aes128Dec (packBlock g.key) (packBlock g.din))) :=
  outputBlock_of_keyValid hvalid _

/-- R181: a DIN that was encrypted under the committed key decrypts to the block it was. -/
theorem memWrite_aesDecrypt_encrypted {g : Regs} (hvalid : g.keyValid = true) {b : Block}
    (hdin : g.din = unpackBlock (aes128Enc (packBlock g.key) (packBlock b))) :
    memWrite 0x00 0x42 g = g.setDout b := by
  rw [memWrite_aesDecrypt hvalid, hdin, packBlock_unpackBlock, aes128Dec_aes128Enc, unpackBlock_packBlock]

/-- The three accesses write DOUT, DIN and DOUT again, and no other field. -/
theorem memWrite_encrypt_copy_decrypt {g : Regs} (hvalid : g.keyValid = true) :
    ∃ c, memWrite 0x00 0x42 (writeBlock 0x30 (memWrite 0x00 0x41 g).dout (memWrite 0x00 0x41 g)) =
      ((g.setDout c).setDin c).setDout g.din := by
  refine ⟨unpackBlock (aes128Enc (packBlock g.key) (packBlock g.din)), ?_⟩
  rw [memWrite_aesEncrypt hvalid, writeBlock_din, Regs.setDout_dout]
  apply memWrite_aesDecrypt_encrypted
  · rw [Regs.setDin_keyValid, Regs.setDout_keyValid, hvalid]
  · rw [Regs.setDin_din, Regs.setDin_key, Regs.setDout_key]

/-- Settles O35: DOUT ends as the DIN that was encrypted, and every other field the statement names is kept. -/
theorem aesRoundTripThroughTheWrapper : Obligations.AesRoundTripThroughTheWrapper := by
  intro g hvalid
  obtain ⟨c, hround⟩ := memWrite_encrypt_copy_decrypt hvalid
  exact ⟨_, hround.symm, rfl, rfl, hvalid, rfl, rfl⟩

end Sys2Proof.Machine

/-! The bits of a field (R202 to R204): which bits of the byte an extract reads and a fill writes. -/

namespace Sys2Proof.Machine

/-- R201's base is 1, and a width of at least 1 bounds the width and the start bit by their sum. -/
theorem legalField_iff (width startBit : Byte) : legalField width startBit = true ↔
    1 ≤ width.toNat ∧ 1 ≤ startBit.toNat ∧ startBit.toNat - 1 + width.toNat ≤ 8 := by
  simp only [legalField, Bool.and_eq_true, decide_eq_true_eq]
  rw [fieldShift, Config.bitposBase]
  omega

theorem getLsbD_lowOnes (w j : Nat) : (lowOnes w).getLsbD j = (decide (j < 8) && decide (j < w)) := by
  rw [lowOnes, BitVec.getLsbD_ofNat, Nat.one_shiftLeft, Nat.testBit_two_pow_sub_one]

theorem getLsbD_fieldMask (w s j : Nat) :
    (fieldMask w s).getLsbD j = (decide (j < 8) && (decide (s ≤ j) && decide (j - s < w))) := by
  rw [fieldMask, BitVec.getLsbD_ofNat, Nat.one_shiftLeft, Nat.testBit_shiftLeft, Nat.testBit_two_pow_sub_one]

/-- R203, bit by bit. -/
theorem getLsbD_extractField (a : Byte) (w s j : Nat) :
    (extractField a w s).getLsbD j = (decide (j < w) && a.getLsbD (s + j)) := by
  rw [extractField, BitVec.getLsbD_and, BitVec.getLsbD_ushiftRight, getLsbD_lowOnes]
  by_cases hj : j < 8
  · simp [hj, Bool.and_comm]
  · rw [BitVec.getLsbD_of_ge a (s + j) (by omega), Bool.false_and, Bool.and_false]

/-- A value that fits a width has no bit at or above it. -/
theorem getLsbD_of_fits {v : Byte} {w i : Nat} (hfits : v.toNat < 2 ^ w) (hi : w ≤ i) : v.getLsbD i = false :=
  Nat.testBit_lt_two_pow (hfits.trans_le (Nat.pow_le_pow_right Nat.two_pos hi))

theorem extractField_fits (a : Byte) (w s : Nat) : (extractField a w s).toNat < 2 ^ w := by
  refine Nat.lt_pow_two_of_testBit _ fun j hj => ?_
  have hbit := getLsbD_extractField a w s j
  rwa [decide_eq_false (Nat.not_lt.mpr hj), Bool.false_and] at hbit

/-- R204, bit by bit: inside the field the value's bits, outside it the byte's. -/
theorem getLsbD_fillField {v : Byte} {w s : Nat} (hfield : s + w ≤ 8) (hfits : v.toNat < 2 ^ w) (a : Byte) (j : Nat) :
    (fillField a w s v).getLsbD j = if s ≤ j ∧ j < s + w then v.getLsbD (j - s) else a.getLsbD j := by
  rw [fillField, BitVec.getLsbD_or, BitVec.getLsbD_and, BitVec.getLsbD_not, getLsbD_fieldMask, BitVec.getLsbD_shiftLeft]
  split
  next hin =>
    have hj : j < 8 := by omega
    have hlow : ¬j < s := by omega
    have hwidth : j - s < w := by omega
    simp [hj, hlow, hwidth, hin.1]
  next hout =>
    by_cases hlow : j < s
    · have hj : j < 8 := by omega
      simp [hj, hlow, Nat.not_le.mpr hlow]
    · have hwidth : ¬j - s < w := by omega
      rw [getLsbD_of_fits hfits (Nat.not_lt.mp hwidth)]
      by_cases hj : j < 8
      · simp [hj, hwidth]
      · simp [hj, BitVec.getLsbD_of_ge a j (by omega)]

end Sys2Proof.Machine

/-! R207 laws 1 to 3: extracting and filling, compared bit by bit. -/

namespace Sys2Proof.Machine

/-- R207 law 1. -/
theorem extractField_fillField {v : Byte} {w s : Nat} (hfield : s + w ≤ 8) (hfits : v.toNat < 2 ^ w) (a : Byte) :
    extractField (fillField a w s v) w s = v := by
  refine BitVec.eq_of_getLsbD_eq fun j _ => ?_
  rw [getLsbD_extractField, getLsbD_fillField hfield hfits]
  by_cases hj : j < w
  · simp [hj]
  · rw [getLsbD_of_fits hfits (Nat.not_lt.mp hj), decide_eq_false hj, Bool.false_and]

/-- R207 law 2. -/
theorem fillField_extractField {w s : Nat} (hfield : s + w ≤ 8) (a : Byte) :
    fillField a w s (extractField a w s) = a := by
  refine BitVec.eq_of_getLsbD_eq fun j _ => ?_
  rw [getLsbD_fillField hfield (extractField_fits a w s)]
  split
  next hin =>
    have hwidth : j - s < w := by omega
    rw [getLsbD_extractField, decide_eq_true hwidth, Bool.true_and, Nat.add_sub_cancel' hin.1]
  next => rfl

/-- R207 law 3: no bit lies in both fields. -/
theorem fillField_comm {v v' : Byte} {w s w' s' : Nat} (hfield : s + w ≤ 8) (hfield' : s' + w' ≤ 8)
    (hdisjoint : s + w ≤ s' ∨ s' + w' ≤ s) (hfits : v.toNat < 2 ^ w) (hfits' : v'.toNat < 2 ^ w') (a : Byte) :
    fillField (fillField a w s v) w' s' v' = fillField (fillField a w' s' v') w s v := by
  refine BitVec.eq_of_getLsbD_eq fun j _ => ?_
  simp only [getLsbD_fillField hfield hfits, getLsbD_fillField hfield' hfits']
  by_cases hin : s ≤ j ∧ j < s + w
  · have hout : ¬(s' ≤ j ∧ j < s' + w') := by omega
    rw [if_neg hout, if_pos hin, if_pos hin]
  · rw [if_neg hin, if_neg hin]

/-- Settles O41: the three laws, each by the bits of the fields. -/
theorem fieldFillLaws : Obligations.FieldFillLaws :=
  ⟨fun a _ _ _ _ hfield =>
    ⟨fun hfits => extractField_fillField hfield hfits a, fillField_extractField hfield a⟩,
   fun a _ _ _ _ _ _ _ hfield _ hfield' hdisjoint hfits hfits' =>
    fillField_comm hfield hfield' hdisjoint hfits hfits' a⟩

end Sys2Proof.Machine

/-! The commands of the bit-field unit write BF_RES alone (R35), which one address shows, or raise FIELD. -/

namespace Sys2Proof.Machine

/-- The registers with another BF_RES. -/
def Regs.setBfRes (v : Byte) (g : Regs) : Regs := { g with bfRes := v }

theorem memRead_setBfRes_same (v : Byte) (g : Regs) : memRead 0x14 (g.setBfRes v) = v := rfl

theorem memRead_setBfRes (v : Byte) (g : Regs) {a : Addr} (h : a ≠ 0x14) :
    memRead a (g.setBfRes v) = memRead a g := by
  unfold memRead
  cases hr : regAt a with
  | bfRes => exact absurd (eq_of_regAt rfl hr) h
  | _ => rfl

theorem onlyChanges_of_setBfRes {s t : State} {v : Byte} (hregs : t.regs = s.regs.setBfRes v)
    (hhost : t.host = s.host) : onlyChanges [0x14] s t := by
  refine ⟨fun a ha => ?_, ?_, hhost⟩
  · rw [hregs, memRead_setBfRes v s.regs (by simpa using ha)]
  · rw [hregs, Regs.setBfRes]

/-- What the host sees of a command that gives its result under the condition `p` and raises FIELD otherwise. -/
theorem resultOrField_spec {s t : State} {p : Prop} [Decidable p] {v : Byte}
    (hregs : t.regs = if p then s.regs.setBfRes v else raise .field s.regs) (hhost : t.host = s.host) :
    (p → onlyChanges [0x14] s t ∧ memRead 0x14 t.regs = v) ∧ (¬p → raisesOnly .field s t) := by
  constructor
  · intro hp
    rw [if_pos hp] at hregs
    exact ⟨onlyChanges_of_setBfRes hregs hhost, by rw [hregs, memRead_setBfRes_same]⟩
  · intro hp
    rw [if_neg hp] at hregs
    exact raisesOnly_of_eq_raise hregs hhost

theorem bfExtractEffect_eq (g : Regs) : bfExtractEffect g =
    if 1 ≤ g.bfW.toNat ∧ 1 ≤ g.bfS.toNat ∧ g.bfS.toNat - 1 + g.bfW.toNat ≤ 8 then
      g.setBfRes (extractField g.bfA g.bfW.toNat (g.bfS.toNat - 1))
    else raise .field g :=
  if_congr (legalField_iff g.bfW g.bfS) rfl rfl

theorem bfFillEffect_eq (g : Regs) : bfFillEffect g =
    if (1 ≤ g.bfW.toNat ∧ 1 ≤ g.bfS.toNat ∧ g.bfS.toNat - 1 + g.bfW.toNat ≤ 8) ∧ g.bfB.toNat < 2 ^ g.bfW.toNat then
      g.setBfRes (fillField g.bfA g.bfW.toNat (g.bfS.toNat - 1) g.bfB)
    else raise .field g := by
  simp only [← legalField_iff, ← Nat.not_le, ← Nat.one_shiftLeft]
  rw [ite_and, ite_not]
  rfl

/-- Settles O37: on a legal field the result is `extractField`, whose bits are known. -/
theorem bfExtractReturnsTheField : Obligations.BfExtractReturnsTheField := by
  refine ⟨rfl, fun s => ⟨s.onRegs bfExtractEffect, rfl, ?_⟩⟩
  obtain ⟨hresult, hraise⟩ := resultOrField_spec (t := s.onRegs bfExtractEffect) (bfExtractEffect_eq s.regs) rfl
  refine ⟨fun hlegal => ?_, hraise⟩
  obtain ⟨hframe, hread⟩ := hresult hlegal
  refine ⟨hframe, fun j => ?_⟩
  rw [hread, getLsbD_extractField]

/-- Settles O38: on a legal field and a fitting value the result is `fillField`, whose bits are known. -/
theorem bfFillReplacesTheField : Obligations.BfFillReplacesTheField := by
  refine ⟨rfl, fun s => ⟨s.onRegs bfFillEffect, rfl, ?_⟩⟩
  obtain ⟨hresult, hraise⟩ := resultOrField_spec (t := s.onRegs bfFillEffect) (bfFillEffect_eq s.regs) rfl
  refine ⟨fun hfill => ?_, hraise⟩
  obtain ⟨hframe, hread⟩ := hresult hfill
  obtain ⟨⟨_, _, hfield⟩, hfits⟩ := hfill
  refine ⟨hframe, fun j => ?_⟩
  rw [hread, getLsbD_fillField hfield hfits]

end Sys2Proof.Machine

/-! The flags and their masks (R205, R206): both commands OR bytes in over the eight flags. -/

namespace Sys2Proof.Machine

/-- A bit of the bytes ORed in by a fold comes from the start or from one of the bytes taken. -/
theorem getLsbD_foldl_or {ι : Type} (p : ι → Prop) [DecidablePred p] (f : ι → Byte) (is : List ι) (r : Byte) (j : Nat) :
    (is.foldl (fun r i => if p i then r ||| f i else r) r).getLsbD j = true ↔
      r.getLsbD j = true ∨ ∃ i ∈ is, p i ∧ (f i).getLsbD j = true := by
  induction is generalizing r with
  | nil => simp
  | cons i is ih =>
    rw [List.foldl_cons, ih, List.exists_mem_cons_iff]
    by_cases hi : p i
    · simp [hi, or_assoc]
    · simp [hi]

theorem mem_flagIndices : ∀ i : Fin 8, i ∈ flagIndices := by decide

/-- R205, bit by bit. -/
theorem getLsbD_packFlags_iff (flags : Byte) (m : Vector Byte 8) (j : Nat) :
    (packFlags flags m).getLsbD j = true ↔ ∃ i : Fin 8, flags.getLsbD i.val = true ∧ m[i].getLsbD j = true := by
  rw [packFlags, getLsbD_foldl_or (fun i : Fin 8 => flags.getLsbD i.val = true) (fun i => m[i])]
  simp [mem_flagIndices]

/-- The byte of one flag, which R206 shifts as a number. -/
theorem flagBit_eq_twoPow : ∀ i : Fin 8, ((1 <<< i.val : Nat) : Byte) = BitVec.twoPow 8 i.val := by decide

theorem getLsbD_flagBit (i j : Fin 8) : ((1 <<< i.val : Nat) : Byte).getLsbD j.val = true ↔ i = j := by
  rw [flagBit_eq_twoPow, BitVec.getLsbD_twoPow, decide_eq_true i.isLt, Bool.true_and, decide_eq_true_eq, Fin.val_inj]

/-- R206, bit by bit. -/
theorem getLsbD_unpackFlags_iff (a : Byte) (m : Vector Byte 8) (i : Fin 8) :
    (unpackFlags a m).getLsbD i.val = true ↔ a &&& m[i] ≠ 0x00 := by
  rw [unpackFlags, getLsbD_foldl_or (fun k : Fin 8 => a &&& m[k] ≠ 0x00) (fun k => ((1 <<< k.val : Nat) : Byte))]
  simp only [getLsbD_flagBit, mem_flagIndices, true_and, exists_eq_right]
  exact or_iff_right (by simp)

theorem bfPackFlagsEffect_eq_setBfRes (g : Regs) : bfPackFlagsEffect g = g.setBfRes (packFlags g.bfB g.mask) := rfl

theorem bfUnpackFlagsEffect_eq_setBfRes (g : Regs) : bfUnpackFlagsEffect g = g.setBfRes (unpackFlags g.bfA g.mask) :=
  rfl

/-- Settles O39: the result is `packFlags`, whose bits are known. -/
theorem bfPackFlagsOrsTheMasks : Obligations.BfPackFlagsOrsTheMasks :=
  ⟨rfl, fun s => ⟨_, rfl, onlyChanges_of_setBfRes (bfPackFlagsEffect_eq_setBfRes s.regs) rfl,
    getLsbD_packFlags_iff s.regs.bfB s.regs.mask⟩⟩

/-- Settles O40: the result is `unpackFlags`, whose bits are known. -/
theorem bfUnpackFlagsTestsTheMasks : Obligations.BfUnpackFlagsTestsTheMasks :=
  ⟨rfl, fun s => ⟨_, rfl, onlyChanges_of_setBfRes (bfUnpackFlagsEffect_eq_setBfRes s.regs) rfl,
    getLsbD_unpackFlags_iff s.regs.bfA s.regs.mask⟩⟩

end Sys2Proof.Machine

/-! R207 law 4: when packing the unpacked flags of a byte gives the byte back (conflict C3). -/

namespace Sys2Proof.Machine

/-- A mask meets a byte when some bit is in both. -/
theorem and_ne_zero_iff (b m : Byte) : b &&& m ≠ 0x00 ↔ ∃ j, b.getLsbD j = true ∧ m.getLsbD j = true := by
  constructor
  · intro hne
    by_contra! hdisjoint
    refine hne (BitVec.eq_of_getLsbD_eq fun j _ => ?_)
    simp only [BitVec.ofNat_eq_ofNat, BitVec.getLsbD_and, BitVec.getLsbD_zero, Bool.and_eq_false_imp]
    exact fun hb => Bool.eq_false_iff.mpr (hdisjoint j hb)
  · rintro ⟨j, hb, hm⟩ hzero
    have hbit : (b &&& m).getLsbD j = true := by rw [BitVec.getLsbD_and, hb, hm, Bool.and_self]
    simp [hzero] at hbit

/-- A mask meets a byte in the whole mask when the byte has all its bits. -/
theorem and_eq_right_iff (b m : Byte) : b &&& m = m ↔ ∀ j, m.getLsbD j = true → b.getLsbD j = true := by
  constructor
  · intro hand j hm
    rw [← hand, BitVec.getLsbD_and, Bool.and_eq_true] at hm
    exact hm.1
  · intro hsub
    refine BitVec.eq_of_getLsbD_eq fun j _ => ?_
    rw [BitVec.getLsbD_and, Bool.and_eq_right_iff_imp]
    exact hsub j

/-- A byte with a single bit meets every mask in nothing or in itself. -/
theorem and_twoPow_cases (b : Byte) (k : Nat) :
    b &&& BitVec.twoPow 8 k = 0x00 ∨ b &&& BitVec.twoPow 8 k = BitVec.twoPow 8 k := by
  rw [BitVec.and_twoPow]
  split
  · exact .inr rfl
  · exact .inl rfl

/-- A nonzero mask that meets every byte in nothing or in the whole mask has one bit: take the byte of that bit. -/
theorem eq_twoPow_of_and_cases {m : Byte} (hne : m ≠ 0x00)
    (hmeet : ∀ b : Byte, b &&& m = 0x00 ∨ b &&& m = m) : ∃ j : Fin 8, m = BitVec.twoPow 8 j.val := by
  rw [← BitVec.and_self (x := m), and_ne_zero_iff] at hne
  obtain ⟨j, hj, -⟩ := hne
  refine ⟨⟨j, BitVec.lt_of_getLsbD hj⟩, ?_⟩
  have hwhole : BitVec.twoPow 8 j &&& m = m :=
    (hmeet (BitVec.twoPow 8 j)).resolve_left ((and_ne_zero_iff _ m).mpr ⟨j, by simp [BitVec.lt_of_getLsbD hj], hj⟩)
  calc m = m &&& BitVec.twoPow 8 j := by rw [BitVec.and_comm, hwhole]
    _ = BitVec.twoPow 8 j := by rw [BitVec.and_twoPow, if_pos hj]

/-- The bits of a byte after unpacking and packing: those of every mask that the byte meets. -/
theorem getLsbD_packFlags_unpackFlags_iff (b : Byte) (m : Vector Byte 8) (j : Nat) :
    (packFlags (unpackFlags b m) m).getLsbD j = true ↔ ∃ i : Fin 8, b &&& m[i] ≠ 0x00 ∧ m[i].getLsbD j = true := by
  simp only [getLsbD_packFlags_iff, getLsbD_unpackFlags_iff]

/-- R207 law 4 for one byte. -/
theorem packFlags_unpackFlags_eq_iff (b : Byte) (m : Vector Byte 8) : packFlags (unpackFlags b m) m = b ↔
    (∀ j : Nat, b.getLsbD j = true → ∃ i : Fin 8, m[i].getLsbD j = true) ∧
    ∀ i : Fin 8, b &&& m[i] = 0x00 ∨ b &&& m[i] = m[i] := by
  have hbits := getLsbD_packFlags_unpackFlags_iff b m
  constructor
  · intro heq
    rw [heq] at hbits
    refine ⟨fun j hj => ?cover, fun i => or_iff_not_imp_left.mpr fun hmeet => ?whole⟩
    case cover =>
      obtain ⟨i, _, hm⟩ := (hbits j).mp hj
      exact ⟨i, hm⟩
    case whole => exact (and_eq_right_iff b m[i]).mpr fun j hm => (hbits j).mpr ⟨i, hmeet, hm⟩
  · rintro ⟨hcover, hmeet⟩
    refine BitVec.eq_of_getLsbD_eq fun j _ => Bool.eq_iff_iff.mpr ((hbits j).trans ⟨?_, fun hj => ?_⟩)
    · rintro ⟨i, hne, hm⟩
      exact (and_eq_right_iff b m[i]).mp ((hmeet i).resolve_left hne) j hm
    · obtain ⟨i, hm⟩ := hcover j hj
      exact ⟨i, (and_ne_zero_iff b m[i]).mpr ⟨j, hj, hm⟩, hm⟩

/-- R207 law 4 for a mask table: the bytes that show its condition are the one with all bits and those with one. -/
theorem forall_packFlags_unpackFlags_eq_iff (m : Vector Byte 8) : (∀ b, packFlags (unpackFlags b m) m = b) ↔
    (∀ i : Fin 8, m[i] = 0x00 ∨ ∃ j : Fin 8, m[i] = BitVec.twoPow 8 j.val) ∧
    ∀ j : Fin 8, ∃ i : Fin 8, m[i].getLsbD j.val = true := by
  simp only [packFlags_unpackFlags_eq_iff]
  constructor
  · intro h
    refine ⟨fun i => or_iff_not_imp_left.mpr fun hne => eq_twoPow_of_and_cases hne fun b => (h b).2 i, fun j => ?_⟩
    exact (h (BitVec.allOnes 8)).1 j.val (by rw [BitVec.getLsbD_allOnes, decide_eq_true j.isLt])
  · rintro ⟨hsingle, hcover⟩ b
    refine ⟨fun j hj => hcover ⟨j, BitVec.lt_of_getLsbD hj⟩, fun i => ?_⟩
    obtain hzero | ⟨j, hbit⟩ := hsingle i
    · exact .inl (by rw [hzero]; exact BitVec.and_zero)
    · rw [hbit]
      exact and_twoPow_cases b j.val

/-- Settles O42: the law for one byte, and what it says for all bytes. -/
theorem packAfterUnpackIsTheIdentityExactlyWhen : Obligations.PackAfterUnpackIsTheIdentityExactlyWhen := by
  refine ⟨packFlags_unpackFlags_eq_iff, fun m => ?_⟩
  simp only [flagBit_eq_twoPow]
  exact forall_packFlags_unpackFlags_eq_iff m

end Sys2Proof.Machine

/-! `record_error` (R223) as one equation, and the error record alone (R25). -/

namespace Sys2Proof.Machine

theorem recordError_eq (e : ErrorName) (g : Regs) : g.recordError e =
    { g with err := if g.err = 0 then e.code else g.err, errOvf := if g.err = 0 then g.errOvf else true } := by
  obtain ⟨hzero, hraise⟩ | ⟨hpending, hraise⟩ := raise_cases e g
  · rw [if_pos hzero, if_pos hzero]
    exact hraise
  · rw [if_neg hpending, if_neg hpending]
    exact hraise

/-- Settles O43: the two cases of `raise_cases`, and the codes by evaluation. -/
theorem recordErrorKeepsTheFirstCode : Obligations.RecordErrorKeepsTheFirstCode :=
  ⟨recordError_eq, rfl, rfl, rfl, rfl, rfl, rfl⟩

theorem raise_err (e : ErrorName) (g : Regs) : (raise e g).err = if g.err = 0 then e.code else g.err :=
  congrArg Regs.err (recordError_eq e g)

theorem raise_errOvf (e : ErrorName) (g : Regs) :
    (raise e g).errOvf = if g.err = 0 then g.errOvf else true :=
  congrArg Regs.errOvf (recordError_eq e g)

/-- The two hold the same error record. -/
def sameErrors (g g' : Regs) : Prop := g'.err = g.err ∧ g'.errOvf = g.errOvf

theorem keepsErrors_iff_sameErrors (s t : State) : keepsErrors s t ↔ sameErrors s.regs t.regs := Iff.rfl

theorem sameErrors_refl (g : Regs) : sameErrors g g := ⟨rfl, rfl⟩

theorem sameErrors_storeReg (r : RegName) (v : Byte) (g : Regs) : sameErrors g (storeReg r v g) := by
  rw [storeReg_frame]
  exact sameErrors_refl g

theorem sameErrors_setSout (out : List Byte) (g : Regs) : sameErrors g (setSout g out) := by
  rw [setSout_frame]
  exact sameErrors_refl g

/-- CHK_OK, which a failing check writes first (R224), is no part of the error record. -/
theorem sameErrors_recordCheck_false (g : Regs) : sameErrors (raise .checksum g) (recordCheck false g) :=
  ⟨(raise_err .checksum { g with chkOk := false }).trans (raise_err .checksum g).symm,
    (raise_errOvf .checksum { g with chkOk := false }).trans (raise_errOvf .checksum g).symm⟩

end Sys2Proof.Machine

/-! What an access can do to the error record (R221, R228), said once for every access. -/

namespace Sys2Proof.Machine

/-- The access `i`, from `g` to `g'`, is one that R221 names for the error. -/
def errorCause (i : Instr) (g g' : Regs) : ErrorName → Prop
  | .illegalCmd => ∃ c, i = .wr 0x00 c ∧ decodeCommand c = none
  | .checksum => (runsCommand i .crcCheck ∨ runsCommand i .lrcCheck) ∧ g'.chkOk = false
  | .format => runsCommand i .unstuffByte ∨ runsCommand i .unstuffEnd
  | .noKey => (runsCommand i .aesEncrypt ∨ runsCommand i .aesDecrypt) ∧ g.keyValid = false
  | .field => runsCommand i .bfExtract ∨ runsCommand i .bfFill
  | .illegalAccess => ∃ a v, i = .wr a v ∧ (isRoAddr a ∨ isReservedAddr a)

/-- `ErrorsEffect i g g'`: what the access `i`, from `g` to `g'`, does to the error record. -/
inductive ErrorsEffect (i : Instr) (g g' : Regs) : Prop
  /-- Nothing is raised (R222). -/
  | kept (same : sameErrors g g')
  /-- The record is cleared (R228). -/
  | cleared (run : runsCommand i .softReset ∨ runsCommand i .clrErr) (same : sameErrors g.acknowledge g')
  /-- One error is raised, for a cause R221 names (R225). -/
  | recorded (e : ErrorName) (cause : errorCause i g g' e) (same : sameErrors (raise e g) g')

theorem ErrorsEffect.ite {i : Instr} {g a b : Regs} {p : Prop} [Decidable p] (ha : p → ErrorsEffect i g a)
    (hb : ¬p → ErrorsEffect i g b) : ErrorsEffect i g (if p then a else b) := by
  split
  next hp => exact ha hp
  next hp => exact hb hp

theorem ErrorsEffect.raised {i : Instr} {g : Regs} (e : ErrorName) (cause : errorCause i g (raise e g) e) :
    ErrorsEffect i g (raise e g) :=
  .recorded e cause (sameErrors_refl _)

theorem errorsEffect_recordCheck {i : Instr} (run : runsCommand i .crcCheck ∨ runsCommand i .lrcCheck) (ok : Bool)
    (g : Regs) : ErrorsEffect i g (recordCheck ok g) :=
  match ok with
  | true => .kept ⟨rfl, rfl⟩
  | false => .recorded .checksum ⟨run, recordCheck_chkOk false g⟩ (sameErrors_recordCheck_false g)

theorem errorsEffect_outputBlock {i : Instr} (run : runsCommand i .aesEncrypt ∨ runsCommand i .aesDecrypt)
    (w : Word128) (g : Regs) : ErrorsEffect i g (outputBlock w g) :=
  .ite (fun _ => .kept ⟨rfl, rfl⟩) fun hvalid => .raised .noKey ⟨run, Bool.eq_false_iff.mpr hvalid⟩

theorem errorsEffect_unstuffByteEffect {i : Instr} (run : runsCommand i .unstuffByte) (g : Regs) :
    ErrorsEffect i g (unstuffByteEffect g) := by
  obtain h | ⟨out, p, h⟩ := unstuffByteEffect_raise_or_setSout g
  · exact h ▸ .raised .format (.inl run)
  · exact h ▸ .kept (sameErrors_setSout out g)

theorem errorsEffect_commandEffect {i c : Instr} (run : runsCommand i c) (noRead : ∀ a, c ≠ .rd a)
    (noWrite : ∀ a v, c ≠ .wr a v) (g : Regs) : ErrorsEffect i g (commandEffect c g) := by
  cases c with
  | softReset => exact .cleared (.inl run) ⟨rfl, rfl⟩
  | clrErr => exact .cleared (.inr run) ⟨rfl, rfl⟩
  | crcCheck => exact errorsEffect_recordCheck (.inl run) _ g
  | lrcCheck => exact errorsEffect_recordCheck (.inr run) _ g
  | stuffByte => exact .kept (sameErrors_setSout _ g)
  | unstuffByte => exact errorsEffect_unstuffByteEffect run g
  | unstuffEnd => exact .ite (fun _ => .raised .format (.inr run)) fun _ => .kept (sameErrors_refl g)
  | aesEncrypt => exact errorsEffect_outputBlock (.inl run) _ g
  | aesDecrypt => exact errorsEffect_outputBlock (.inr run) _ g
  | bfExtract => exact .ite (fun _ => .kept ⟨rfl, rfl⟩) fun _ => .raised .field (.inl run)
  | bfFill =>
    have field := ErrorsEffect.raised (g := g) .field (.inr run)
    exact .ite (fun _ => .ite (fun _ => field) fun _ => .kept ⟨rfl, rfl⟩) fun _ => field
  | rd a => exact absurd rfl (noRead a)
  | wr a v => exact absurd rfl (noWrite a v)
  | _ => exact .kept ⟨rfl, rfl⟩

/-- An address with no access code is reserved (R40). -/
theorem isReservedAddr_of_access_regAt {a : Addr} (h : (regAt a).access = .none) : isReservedAddr a := by
  rw [← regAt_eq_reserved_iff]
  cases hr : regAt a with
  | reserved => rfl
  | _ => simp [hr, RegName.access] at h

theorem RegsEffect.errorsEffect {i : Instr} {f : Regs → Regs} (h : RegsEffect i f) (g : Regs) :
    ErrorsEffect i g (f g) := by
  cases h with
  | command c run noRead noWrite => exact errorsEffect_commandEffect run noRead noWrite g
  | reservedCommand c write reserved => exact .raised .illegalCmd ⟨c, write, reserved⟩
  | keyWrite => exact .kept ⟨rfl, rfl⟩
  | store a v => exact .kept (sameErrors_storeReg _ v g)
  | refusedWrite a v write refused =>
    exact .raised .illegalAccess
      ⟨a, v, write, refused.imp (access_regAt_eq_ro_iff a).mp isReservedAddr_of_access_regAt⟩

/-- Every access keeps the error record, clears it, or records one error for a cause R221 names. -/
theorem exec_errorsEffect {i : Instr} {s t : State} (h : exec i s = .next t) : ErrorsEffect i s.regs t.regs := by
  obtain hsame | ⟨f, heff, ht⟩ := exec_regs h
  · rw [hsame]
    exact .kept (sameErrors_refl _)
  · rw [ht]
    exact heff.errorsEffect s.regs

/-- Settles O44: `raise` keeps a code and only sets ERR_OVF, and what clears the record is excluded. -/
theorem firstErrorStaysUntilAcknowledged : Obligations.FirstErrorStaysUntilAcknowledged := by
  intro i s t h hpending hclr hreset
  cases exec_errorsEffect h with
  | kept same =>
    obtain ⟨herr, hovf⟩ := same
    exact ⟨herr, hovf.trans⟩
  | cleared run => exact absurd run (not_or.mpr ⟨hreset, hclr⟩)
  | recorded e _ same =>
    obtain ⟨herr, hovf⟩ := same
    rw [raise_err, if_neg hpending] at herr
    rw [raise_errOvf, if_neg hpending] at hovf
    exact ⟨herr, fun _ => hovf⟩

/-- Settles O46: an error record that was empty and is so no longer holds the code of the error raised, whose cause
is known. -/
theorem errorCodesNameTheirCause : Obligations.ErrorCodesNameTheirCause := by
  intro i s t h hzero hne
  cases exec_errorsEffect h with
  | kept same => exact absurd (same.1.trans hzero) hne
  | cleared _ same => exact absurd same.1 hne
  | recorded e cause same =>
    have hcode : t.regs.err = e.code := by rw [same.1, raise_err, if_pos hzero]
    cases e with
    | illegalCmd => exact .inl ⟨hcode, cause⟩
    | checksum => exact .inr (.inl ⟨hcode, cause⟩)
    | format => exact .inr (.inr (.inl ⟨hcode, cause⟩))
    | noKey => exact .inr (.inr (.inr (.inl ⟨hcode, cause⟩)))
    | field => exact .inr (.inr (.inr (.inr (.inl ⟨hcode, cause⟩))))
    | illegalAccess => exact .inr (.inr (.inr (.inr (.inr ⟨hcode, cause⟩))))

end Sys2Proof.Machine

/-! The accesses that raise nothing (R222). -/

namespace Sys2Proof.Machine

/-- An access that runs a command does what the command byte itself does (R80, R103). -/
theorem exec_of_runsCommand {i c : Instr} (run : runsCommand i c) (s : State) : exec i s = exec c s := by
  obtain rfl | ⟨b, rfl, hdecode⟩ := run
  · rfl
  · exact exec_wr_cmd_of_some hdecode s

/-- The commands of R222, but for the two that clear the error record. -/
def quietCommands : List Instr :=
  [.nop, .crcInit, .crcUpdate, .lrcInit, .lrcUpdate, .stuffClear, .stuffByte, .aesKeyCommit, .aesKeyClear,
    .bfPackFlags, .bfUnpackFlags]

theorem quietCommands_isCommand : ∀ c ∈ quietCommands, (∀ a, c ≠ .rd a) ∧ ∀ a v, c ≠ .wr a v := by
  simp [quietCommands]

/-- No quiet command has the error record among the fields it may write. -/
theorem sameErrors_writtenBy : ∀ c ∈ quietCommands, ∀ g g', sameErrors g (writtenBy c g g') := by
  simp [quietCommands, writtenBy, sameErrors]

theorem exec_quietCommand {c : Instr} (hc : c ∈ quietCommands) {s t : State} (h : exec c s = .next t) :
    keepsErrors s t := by
  obtain ⟨noRead, noWrite⟩ := quietCommands_isCommand c hc
  rw [exec_command c s noRead noWrite] at h
  cases h
  rw [keepsErrors_iff_sameErrors, State.onRegs_regs, commandEffect_eq_writtenBy]
  exact sameErrors_writtenBy c hc _ _

/-- A write to an RW or a KEY register raises nothing. -/
theorem sameErrors_memWrite {a : Addr} (h : isRwAddr a ∨ 0x20 ≤ a.toNat ∧ a.toNat ≤ 0x2F) (v : Byte) (g : Regs) :
    sameErrors g (memWrite a v g) := by
  obtain hrw | hkey := h
  · rw [memWrite_rw ((access_regAt_eq_rw_iff a).mpr hrw)]
    exact sameErrors_storeReg _ v g
  · obtain ⟨k, hk⟩ := (access_eq_wo_iff _).mp ((access_regAt_eq_wo_iff a).mpr hkey)
    rw [memWrite_key hk]
    exact ⟨rfl, rfl⟩

/-- Settles O45: a read changes no register, the writes are stores, and the quiet commands are those of
`quietCommands`; SOFT_RESET and CLR_ERR leave the record empty. -/
theorem quietAccessesRaiseNothing : Obligations.QuietAccessesRaiseNothing := by
  intro i s
  obtain ⟨t, ht⟩ := exec_next i s
  refine ⟨t, ht, ?quiet, ?clearing⟩
  case quiet =>
    rintro (⟨a, rfl⟩ | ⟨a, v, rfl, haddr⟩ | run)
    · cases ht
      exact ⟨rfl, rfl⟩
    · cases ht
      exact sameErrors_memWrite haddr v s.regs
    · obtain ⟨c, hc, run⟩ : ∃ c ∈ quietCommands, runsCommand i c := by simpa [quietCommands] using run
      exact exec_quietCommand hc ((exec_of_runsCommand run s).symm.trans ht)
  case clearing =>
    rintro (run | run) <;> cases (exec_of_runsCommand run s).symm.trans ht <;> exact ⟨rfl, rfl⟩

end Sys2Proof.Machine

/-! The two ways to reset: the command and the platform's event (R250, R251). -/

namespace Sys2Proof.Machine

/-- SOFT_RESET resets the registers the way the platform's reset does (R101, R251). -/
theorem exec_softReset (s : State) : exec .softReset s = .next s.resetRegs := rfl

/-- Both resets leave `Regs.reset`, whatever the registers held before. -/
theorem resetRegs_regs_eq_takeReset_regs (s : State) : s.resetRegs.regs = s.takeReset.regs :=
  (State.resetRegs_regs s).trans (State.takeReset_regs s).symm

/-- Settles O2: the pending event steps to `takeReset`, which drops that event alone from the host's side, and
SOFT_RESET runs `resetRegs`. -/
theorem softResetEqualsHardwareReset : Obligations.SoftResetEqualsHardwareReset := by
  intro s es hp
  have hqueue : s.takeReset.host.pending = es := by simp [hp]
  exact ⟨s.takeReset, s.resetRegs, step_of_platformReset hp, exec_softReset s, State.takeReset_regs s,
    resetRegs_regs_eq_takeReset_regs s, hqueue, State.takeReset_position s, State.takeReset_reads s⟩

end Sys2Proof.Machine
